-- ==== Sys2Proof/Word.lean ====
section
/-!
DEFINITION. The word types of the engine.
-/

namespace Sys2Proof

/-- A byte: one coefficient of a polynomial register, one byte of a buffer, an 8-bit operand
(10_state.md R24, R27 to R29; 30_encoding.md R60). -/
abbrev Byte := BitVec 8

/-- A 32-bit word: a command word, or the value of a register access (30_encoding.md R60, 20_memory.md R44). -/
abbrev Word := BitVec 32

end Sys2Proof
end

