-- ==== Sys2Proof/Syntax.lean ====
section
/-!
DEFINITION. The instructions: the 14 commands of 30_encoding.md R62 and the six segment modes of R65.
-/

namespace Sys2Proof

/-- The command bit F: which field a command works in (40_gf_primitives.md R80). -/
inductive GField where
  /-- GF(2^8), F = 0. -/
  | gf256
  /-- GF(2^4), F = 1. -/
  | gf16
  deriving DecidableEq, Repr

/-- The index of a polynomial register, 0 to 7 (10_state.md R24). -/
abbrev PolyIdx := BitVec 3

/-- One constructor per mnemonic of spec/opcode_table.json. The eleven SEG.END rows, one mnemonic and one rule
(42_bitstream.md R133), are one constructor that carries the row's mode indicator (log entry 6). -/
inductive Instr where
  /-- NOP (R89). -/
  | nop
  /-- GFEXP.f idx (R90). -/
  | gfexp (f : GField) (idx : Byte)
  /-- GFLOG.f a (R91). -/
  | gflog (f : GField) (a : Byte)
  /-- PEVAL.f Ps, x (R94). -/
  | peval (f : GField) (ps : PolyIdx) (x : Byte)
  /-- PADD.f Pd, Ps, c, shift (R95). -/
  | padd (f : GField) (pd ps : PolyIdx) (c shift : Byte)
  /-- BM.f N (R101). -/
  | bm (f : GField) (n : Byte)
  /-- FSYN (R103). -/
  | fsyn
  /-- FCORR (R104). -/
  | fcorr
  /-- BSYN bs, npar (R108). -/
  | bsyn (bs npar : Byte)
  /-- EEVP npar (R111). -/
  | eevp (npar : Byte)
  /-- BCORR bs, dw (R112). -/
  | bcorr (bs dw : Byte)
  /-- VERS size (R120). -/
  | vers (size : Byte)
  /-- TAKE n (R123). -/
  | take (n : Byte)
  /-- PAYLOAD (R125). -/
  | payload
  /-- SEG.NUM, mode indicator 1 (R128). -/
  | segNum
  /-- SEG.ALNUM, mode indicator 2 (R129). -/
  | segAlnum
  /-- SEG.BYTE, mode indicator 4 (R130). -/
  | segByte
  /-- SEG.KANJI, mode indicator 8 (R131). -/
  | segKanji
  /-- SEG.ECI, mode indicator 7 (R132). -/
  | segEci
  /-- SEG.END, any other mode indicator (R133). -/
  | segEnd (mode : BitVec 4)
  deriving DecidableEq, Repr

end Sys2Proof
end

