-- ==== Sys2Proof/WellFormed.lean ====
section
/-!
DEFINITION. Which terms of `Instr` are instructions of the opcode table.
-/

namespace Sys2Proof

/-- The five mode indicators that open a segment with fields (30_encoding.md R65). -/
def isSegmentMode (m : BitVec 4) : Bool :=
  m == 1 || m == 2 || m == 4 || m == 7 || m == 8

/-- Every operand of a command has exactly its field's width, so any command is one the encoding admits (30_encoding.md
R60, R63; whether its operands are LEGAL is the meaning's own test, R70). SEG.END carries one of the eleven other
indicators (30_encoding.md R65, R71). -/
def Instr.wellFormed : Instr → Bool
  | .nop => true
  | .gfexp _ _ => true
  | .gflog _ _ => true
  | .peval _ _ _ => true
  | .padd _ _ _ _ _ => true
  | .bm _ _ => true
  | .fsyn => true
  | .fcorr => true
  | .bsyn _ _ => true
  | .eevp _ => true
  | .bcorr _ _ => true
  | .vers _ => true
  | .take _ => true
  | .payload => true
  | .segNum => true
  | .segAlnum => true
  | .segByte => true
  | .segKanji => true
  | .segEci => true
  | .segEnd m => !isSegmentMode m

end Sys2Proof
end

