-- ==== Sys2Proof/Decode.lean ====
section
/-!
DEFINITION. The two decoders of 30_encoding.md (command words, R60 to R62; mode indicators, R65), the encoder beside
them, and the host's entry `decodeTableWord`.
-/

namespace Sys2Proof

/-- The fields of a command word (30_encoding.md R60). -/
inductive CmdField where
  | fieldF
  | fieldPD
  | fieldPS
  | fieldA
  | fieldB
  deriving DecidableEq, Repr

/-- Why a bit pattern is no instruction (30_encoding.md R61, R70). -/
inductive DecodeError where
  /-- OP is none of the 14 of R62. -/
  | reservedOpcode (op : Byte)
  /-- Bit 15 is not 0. -/
  | bit15Set
  /-- A field the command does not use is not 0. -/
  | unusedFieldSet (field : CmdField)
  /-- The bytes are not one 32-bit word. -/
  | wrongLength (n : Nat)
  deriving DecidableEq, Repr

/-- The 14 opcodes of 30_encoding.md R62. -/
inductive Opcode where
  | nop
  | gfexp
  | gflog
  | peval
  | padd
  | bm
  | fsyn
  | fcorr
  | bsyn
  | eevp
  | bcorr
  | vers
  | take
  | payload
  deriving DecidableEq, Repr

/-- An instruction's bits, in one of the two formats of spec/opcode_table.json. -/
inductive Code where
  /-- CMD32: a 32-bit command word (R60). -/
  | cmd32 (w : Word)
  /-- SEG4: the 4-bit mode indicator, its first bit the most significant (R65). -/
  | seg4 (m : BitVec 4)
  deriving DecidableEq, Repr

/-! ### Fields of a command word (30_encoding.md R60) -/

/-- Bits 7:0. -/
def opField (w : Word) : Byte := w.extractLsb' 0 8
/-- Bit 8. -/
def fField (w : Word) : BitVec 1 := w.extractLsb' 8 1
/-- Bits 11:9. -/
def pdField (w : Word) : PolyIdx := w.extractLsb' 9 3
/-- Bits 14:12. -/
def psField (w : Word) : PolyIdx := w.extractLsb' 12 3
/-- Bit 15. -/
def bit15Field (w : Word) : BitVec 1 := w.extractLsb' 15 1
/-- Bits 23:16. -/
def aField (w : Word) : Byte := w.extractLsb' 16 8
/-- Bits 31:24. -/
def bField (w : Word) : Byte := w.extractLsb' 24 8

/-- F as a field: 0 is GF(2^8), 1 is GF(2^4) (R60). -/
def fieldOfBit (b : BitVec 1) : GField := if b = 0 then .gf256 else .gf16

/-- The bit that selects a field (R60). -/
def bitOfField : GField → BitVec 1
  | .gf256 => 0
  | .gf16 => 1

/-! ### The opcode map (30_encoding.md R62) -/

/-- The OP value of each opcode. -/
def Opcode.code : Opcode → Byte
  | .nop => 0x00
  | .gfexp => 0x01
  | .gflog => 0x02
  | .peval => 0x03
  | .padd => 0x04
  | .bm => 0x10
  | .fsyn => 0x11
  | .fcorr => 0x12
  | .bsyn => 0x13
  | .eevp => 0x14
  | .bcorr => 0x15
  | .vers => 0x20
  | .take => 0x21
  | .payload => 0x22

/-- The fourteen opcodes, in the order of R62. -/
def Opcode.all : List Opcode :=
  [.nop, .gfexp, .gflog, .peval, .padd, .bm, .fsyn, .fcorr, .bsyn, .eevp, .bcorr, .vers, .take, .payload]

/-- The opcode of an OP value; every other value is reserved (R62). -/
def opcodeOf (op : Byte) : Option Opcode := Opcode.all.find? (fun o => o.code == op)

/-- The fields each opcode uses (R62, column "uses"). -/
def Opcode.uses : Opcode → CmdField → Bool
  | .nop, _ => false
  | .gfexp, f => f == .fieldF || f == .fieldA
  | .gflog, f => f == .fieldF || f == .fieldA
  | .peval, f => f == .fieldF || f == .fieldPS || f == .fieldA
  | .padd, _ => true
  | .bm, f => f == .fieldF || f == .fieldA
  | .fsyn, _ => false
  | .fcorr, _ => false
  | .bsyn, f => f == .fieldA || f == .fieldB
  | .eevp, f => f == .fieldA
  | .bcorr, f => f == .fieldA || f == .fieldB
  | .vers, f => f == .fieldA
  | .take, f => f == .fieldA
  | .payload, _ => false

/-- The mask of R62: a 1 at every bit that is fixed. -/
def Opcode.mask : Opcode → Word
  | .nop => 0xFFFFFFFF
  | .gfexp => 0xFF00FEFF
  | .gflog => 0xFF00FEFF
  | .peval => 0xFF008EFF
  | .padd => 0x000080FF
  | .bm => 0xFF00FEFF
  | .fsyn => 0xFFFFFFFF
  | .fcorr => 0xFFFFFFFF
  | .bsyn => 0x0000FFFF
  | .eevp => 0xFF00FFFF
  | .bcorr => 0x0000FFFF
  | .vers => 0xFF00FFFF
  | .take => 0xFF00FFFF
  | .payload => 0xFFFFFFFF

/-- The match of R62. -/
def Opcode.pattern : Opcode → Word
  | .nop => 0x00000000
  | .gfexp => 0x00000001
  | .gflog => 0x00000002
  | .peval => 0x00000003
  | .padd => 0x00000004
  | .bm => 0x00000010
  | .fsyn => 0x00000011
  | .fcorr => 0x00000012
  | .bsyn => 0x00000013
  | .eevp => 0x00000014
  | .bcorr => 0x00000015
  | .vers => 0x00000020
  | .take => 0x00000021
  | .payload => 0x00000022

/-- The instruction an opcode and a word's fields make (R62, R63). -/
def Opcode.instr (o : Opcode) (w : Word) : Instr :=
  match o with
  | .nop => .nop
  | .gfexp => .gfexp (fieldOfBit (fField w)) (aField w)
  | .gflog => .gflog (fieldOfBit (fField w)) (aField w)
  | .peval => .peval (fieldOfBit (fField w)) (psField w) (aField w)
  | .padd => .padd (fieldOfBit (fField w)) (pdField w) (psField w) (aField w) (bField w)
  | .bm => .bm (fieldOfBit (fField w)) (aField w)
  | .fsyn => .fsyn
  | .fcorr => .fcorr
  | .bsyn => .bsyn (aField w) (bField w)
  | .eevp => .eevp (aField w)
  | .bcorr => .bcorr (aField w) (bField w)
  | .vers => .vers (aField w)
  | .take => .take (aField w)
  | .payload => .payload

/-! ### Decoding -/

/-- The first reason, if any, why the fields an opcode leaves unused make the word illegal (R61). -/
def unusedFieldError (o : Opcode) (w : Word) : Option DecodeError :=
  if bit15Field w ≠ 0 then some .bit15Set
  else if !o.uses .fieldF && fField w != 0 then some (.unusedFieldSet .fieldF)
  else if !o.uses .fieldPD && pdField w != 0 then some (.unusedFieldSet .fieldPD)
  else if !o.uses .fieldPS && psField w != 0 then some (.unusedFieldSet .fieldPS)
  else if !o.uses .fieldA && aField w != 0 then some (.unusedFieldSet .fieldA)
  else if !o.uses .fieldB && bField w != 0 then some (.unusedFieldSet .fieldB)
  else none

/-- A command word's instruction, or why it is illegal (30_encoding.md R60, R61, R70). -/
def decodeWord (w : Word) : Except DecodeError Instr :=
  match opcodeOf (opField w) with
  | none => .error (.reservedOpcode (opField w))
  | some o =>
    match unusedFieldError o w with
    | some e => .error e
    | none => .ok (o.instr w)

/-- A mode indicator's segment: there is no illegal one (30_encoding.md R65, R71). -/
def decodeSegment (m : BitVec 4) : Instr :=
  if m = 1 then .segNum
  else if m = 2 then .segAlnum
  else if m = 4 then .segByte
  else if m = 8 then .segKanji
  else if m = 7 then .segEci
  else .segEnd m

/-- The decoder, over both formats. -/
def decode : Code → Except DecodeError Instr
  | .cmd32 w => decodeWord w
  | .seg4 m => .ok (decodeSegment m)

/-! ### Encoding -/

/-- A command word from its fields (30_encoding.md R60). -/
def commandWord (o : Opcode) (f : BitVec 1) (pd ps : PolyIdx) (a b : Byte) : Word :=
  b ++ a ++ (0 : BitVec 1) ++ ps ++ pd ++ f ++ o.code

/-- The bits of an instruction (30_encoding.md R60 to R63, R65). -/
def encode : Instr → Code
  | .nop => .cmd32 (commandWord .nop 0 0 0 0 0)
  | .gfexp f idx => .cmd32 (commandWord .gfexp (bitOfField f) 0 0 idx 0)
  | .gflog f a => .cmd32 (commandWord .gflog (bitOfField f) 0 0 a 0)
  | .peval f ps x => .cmd32 (commandWord .peval (bitOfField f) 0 ps x 0)
  | .padd f pd ps c shift => .cmd32 (commandWord .padd (bitOfField f) pd ps c shift)
  | .bm f n => .cmd32 (commandWord .bm (bitOfField f) 0 0 n 0)
  | .fsyn => .cmd32 (commandWord .fsyn 0 0 0 0 0)
  | .fcorr => .cmd32 (commandWord .fcorr 0 0 0 0 0)
  | .bsyn bs npar => .cmd32 (commandWord .bsyn 0 0 0 bs npar)
  | .eevp npar => .cmd32 (commandWord .eevp 0 0 0 npar 0)
  | .bcorr bs dw => .cmd32 (commandWord .bcorr 0 0 0 bs dw)
  | .vers size => .cmd32 (commandWord .vers 0 0 0 size 0)
  | .take n => .cmd32 (commandWord .take 0 0 0 n 0)
  | .payload => .cmd32 (commandWord .payload 0 0 0 0 0)
  | .segNum => .seg4 1
  | .segAlnum => .seg4 2
  | .segByte => .seg4 4
  | .segKanji => .seg4 8
  | .segEci => .seg4 7
  | .segEnd m => .seg4 m

/-! ### Bytes (20_memory.md R41) -/

/-- The four bytes of a word as a little-endian bus carries them, lowest address first (20_memory.md R41). -/
def wordBytes (w : Word) : List Byte :=
  [w.extractLsb' 0 8, w.extractLsb' 8 8, w.extractLsb' 16 8, w.extractLsb' 24 8]

/-- The command that the bytes of one register write carry, or why there is none (20_memory.md R41, R44). -/
def decodeBytes : List Byte → Except DecodeError Instr
  | [b0, b1, b2, b3] => decodeWord (b3 ++ b2 ++ b1 ++ b0)
  | bs => .error (.wrongLength bs.length)

/-- The host's entry: the instruction of an opcode-table row's bits. A row of at most 8 bits is a SEG4 row, its
indicator read as the number its 4 bits write (log entry 9); a longer row, up to 32 bits, is a CMD32 row, laid out as the
bus carries it and given to the decoder. -/
def decodeTableWord (nbits w : Nat) : Option Instr :=
  if nbits ≤ 8 then
    if w < 16 then (decode (.seg4 (BitVec.ofNat 4 w))).toOption else none
  else if nbits ≤ 32 ∧ w < 2 ^ nbits then (decodeBytes (wordBytes (BitVec.ofNat 32 w))).toOption
  else none

end Sys2Proof
end

