-- ==== Sys2Proof/Config.lean ====
section
/-!
DEFINITION. The open parameters of the engine (00_scope.md R5, R6; 20_memory.md R47; 92_eei_decisions.md D4, D8).
-/

namespace Sys2Proof

/-- The four parameters the spec leaves open. `base` is the bus address of the window; no behaviour depends on it
(93_implementation_defined.md U11). -/
structure Config where
  maxPoly : Nat
  payloadCap : Nat
  dataCap : Nat
  base : Nat
  deriving DecidableEq, Repr

namespace Config

/-- The bounds of 00_scope.md R5 and R6, and `BASE` a multiple of 65536 (20_memory.md R47). -/
abbrev wf (c : Config) : Prop :=
  8 ≤ c.maxPoly ∧ c.maxPoly ≤ 96 ∧
  2 ≤ c.payloadCap ∧ c.payloadCap ≤ 32768 ∧
  1 ≤ c.dataCap ∧ c.dataCap ≤ 16384 ∧
  c.base % 65536 = 0

/-- The spec's defaults (00_scope.md R5, R6). DESIGN CHOICE (log entry 4): `BASE` has no default and is 0 here; safe,
no behaviour depends on it. -/
def standard : Config := { maxPoly := 64, payloadCap := 8896, dataCap := 8896, base := 0 }

/-- Where on the platform's bus an offset of the window stands (20_memory.md R40, R47). -/
def busAddress (c : Config) (off : BitVec 16) : Nat := c.base + off.toNat

end Config

end Sys2Proof
end

