-- ==== Sys2Proof/Machine/State.lean ====
section
/-!
DEFINITION. The state of the engine (10_state.md R10), the host accesses that drive it (20_memory.md R44, R45), the
decode error kinds (60_exceptions.md R150), the reasons a step can stop, and reset (70_reset_and_hazards.md R170).
-/

namespace Sys2Proof.Machine

/-- A byte space of the window: (index, byte) cells in rising order of the index; an unlisted byte reads 0, the spec's
reset content (10_state.md R32). The canonical form is `Memory.wf`. -/
abbrev Memory := List Host.Cell

/-- The width of a bus transfer (20_memory.md R44). -/
inductive AccessWidth where
  | w8
  | w16
  | w32
  deriving DecidableEq, Repr

/-- `MemRead` and `MemWrite` of 00_scope.md R8, at an offset of the 64 KiB window (20_memory.md R40). A write narrower
than 32 bits uses the low bits of `value`. -/
inductive HostAccess where
  | read (off : BitVec 16) (width : AccessWidth)
  | write (off : BitVec 16) (width : AccessWidth) (value : Word)
  deriving DecidableEq, Repr

/-- What the bus answers to a host access (20_memory.md R45, 60_exceptions.md R159). -/
inductive BusResponse where
  /-- A read returned this value, unused high bits 0. -/
  | value (v : Word)
  /-- A write completed. -/
  | done
  /-- The access was refused: no data, no effect. -/
  | busError
  deriving DecidableEq, Repr

/-- The seven decode error kinds (60_exceptions.md R150). -/
inductive ErrKind where
  | invalidGridSize
  | invalidVersion
  | formatEcc
  | blockEcc
  | dataOverflow
  | dataUnderflow
  /-- Reserved: defined so that `ERR`'s range is complete, raised by nothing (R157). -/
  | unknownDataType
  deriving DecidableEq, Repr

/-- The reasons the machine could stop with a fault. There is none, so this type is empty: an error is a code in `ERR`,
an illegal command a flag, a bus error a response, and the engine goes on (60_exceptions.md R158 to R160). Log entry 2;
safe, nothing is left out by it. -/
inductive Fault where
  deriving DecidableEq, Repr

/-- The reasons an instruction has no meaning. -/
inductive Refusal where
  /-- Raised by an arm of `exec` whose instruction has no meaning yet. No arm raises it: every instruction is modelled.
  Safe: a stop never proves anything of the hardware. -/
  | notModelled (mnemonic : String)
  deriving DecidableEq, Repr

/-- The whole state (10_state.md R10), with the model's own fields `cfg`, `inbox` and `response`. -/
structure State where
  /-- The open parameters; no step changes them (log entry 4). -/
  cfg : Config
  /-- `STATUS.Z`, bit 1 (R12). -/
  statusZ : Bool
  /-- `STATUS.ILL`, bit 2 (R12). -/
  statusIll : Bool
  /-- `STATUS.ERRS`, bit 3 (R12). -/
  statusErrs : Bool
  /-- `ERR` (R13). -/
  err : BitVec 3
  /-- `RES` (R14). -/
  res : Word
  /-- `FMTRAW` (R15). -/
  fmtraw : BitVec 15
  /-- `FMT` (R16). -/
  fmt : BitVec 15
  /-- `ECCLVL` (R17). -/
  ecclvl : BitVec 2
  /-- `MASK` (R17). -/
  mask : BitVec 3
  /-- `VERSION` (R18). -/
  version : BitVec 6
  /-- `DATABITS` (R19). -/
  databits : Word
  /-- `BITPTR` (R19, R23). -/
  bitptr : Word
  /-- `PLEN` (R20). -/
  plen : BitVec 16
  /-- `DTYPE` (R21). -/
  dtype : BitVec 4
  /-- `ECI` (R22). -/
  eci : BitVec 24
  /-- `P[n][i]` at index `n * MAX_POLY + i` (R24, 20_memory.md R40). -/
  poly : Memory
  /-- `CW[i]` (R27). -/
  cw : Memory
  /-- `DATA[i]` (R28). -/
  data : Memory
  /-- `PAYLOAD[i]` (R29). -/
  payload : Memory
  /-- The host accesses still to happen, oldest first (20_memory.md R49; log entry 1). -/
  inbox : List HostAccess
  /-- The bus's answer to the last host access (log entry 2). -/
  response : Option BusResponse
  deriving DecidableEq, Repr

/-- Reset of an engine with the given parameters: every piece of state is zero (10_state.md R32,
70_reset_and_hazards.md R170) and the engine waits for the host's first access (R172). -/
def State.resetWith (c : Config) : State where
  cfg := c
  statusZ := false
  statusIll := false
  statusErrs := false
  err := 0
  res := 0
  fmtraw := 0
  fmt := 0
  ecclvl := 0
  mask := 0
  version := 0
  databits := 0
  bitptr := 0
  plen := 0
  dtype := 0
  eci := 0
  poly := []
  cw := []
  data := []
  payload := []
  inbox := []
  response := none

/-- The machine right after reset, with the spec's default parameters (00_scope.md R5, R6; log entry 4). -/
def State.reset : State := State.resetWith Config.standard

end Sys2Proof.Machine
end

