-- ==== Sys2Proof/Machine/Ops.lean ====
section
/-!
DEFINITION. The operations every instruction shares: byte spaces, polynomial registers, ending a command (success, a
raised error, an illegal word), the payload buffer, the bit source, and the decode result.
-/

namespace Sys2Proof.Machine

/-! ### Byte spaces -/

/-- The canonical form: indices strictly rising, no cell that holds what an unlisted byte reads as. -/
abbrev Memory.wf (m : Memory) : Prop :=
  (m.map Prod.fst).Pairwise (· < ·) ∧ ∀ c ∈ m, c.2 ≠ 0

/-- Every listed index is below the space's size. -/
abbrev Memory.below (m : Memory) (size : Nat) : Prop := ∀ c ∈ m, c.1 < size

/-- What an unlisted byte reads as: 0, the reset content (10_state.md R32). -/
def Memory.unlisted : Byte := 0

/-- The byte at an index. -/
def Memory.read : Memory → Nat → Byte
  | [], _ => Memory.unlisted
  | c :: m, a => if c.1 = a then c.2 else Memory.read m a

/-- The cells but the one at an index. -/
def Memory.clear (m : Memory) (a : Nat) : Memory := m.filter (fun c => c.1 != a)

/-- A cell put before the first one of a higher index. -/
def Memory.put (a : Nat) (v : Byte) : Memory → Memory
  | [] => [(a, v)]
  | c :: m => if a < c.1 then (a, v) :: c :: m else c :: Memory.put a v m

/-- One byte written; writing what an unlisted byte reads as removes the cell. -/
def Memory.write (m : Memory) (a : Nat) (v : Byte) : Memory :=
  if v = Memory.unlisted then m.clear a else Memory.put a v (m.clear a)

/-- Bytes written at rising indices from `a`. -/
def Memory.writeList (m : Memory) (a : Nat) : List Byte → Memory
  | [] => m
  | v :: vs => Memory.writeList (m.write a v) (a + 1) vs

/-! ### Polynomial registers (10_state.md R24, R25) -/

/-- `S` is `P[0]`. -/
def regS : Nat := 0
/-- `SIGMA` is `P[1]`. -/
def regSIGMA : Nat := 1
/-- `OMEGA` is `P[2]`. -/
def regOMEGA : Nat := 2
/-- `DSIGMA` is `P[3]`. -/
def regDSIGMA : Nat := 3

/-- Coefficient i of a polynomial held as a list, 0 beyond its end. -/
def coeff (p : List Byte) (i : Nat) : Byte := p.getD i 0

/-- `P[n][i]` (10_state.md R24; its place is 20_memory.md R40's). -/
def State.polyByte (s : State) (n i : Nat) : Byte := s.poly.read (n * s.cfg.maxPoly + i)

/-- `P[n]` whole: `MAX_POLY` coefficients, entry i that of x^i (10_state.md R24). -/
def State.getPoly (s : State) (n : Nat) : List Byte := (List.range s.cfg.maxPoly).map (s.polyByte n)

/-- All `MAX_POLY` entries of `P[n]` written. -/
def State.setPoly (s : State) (n : Nat) (p : List Byte) : State :=
  { s with poly := s.poly.writeList (n * s.cfg.maxPoly) ((List.range s.cfg.maxPoly).map (coeff p)) }

/-! ### Ending a command (60_exceptions.md) -/

/-- The code of an error kind (60_exceptions.md R150). -/
def ErrKind.code : ErrKind → BitVec 3
  | .invalidGridSize => 1
  | .invalidVersion => 2
  | .formatEcc => 3
  | .blockEcc => 4
  | .dataOverflow => 5
  | .dataUnderflow => 6
  | .unknownDataType => 7

/-- A legal command that succeeds: `ERR <- 0`, `STATUS.ILL <- 0` (10_state.md R12, R13). There is no other return from an
error: the next legal command overwrites it (60_exceptions.md R163). -/
def State.succeed (s : State) : State := { s with err := 0, statusIll := false }

/-- TAKING AN EXCEPTION, `raise Kind` (60_exceptions.md R160): the code in `ERR`, `ERRS` set, `ILL` cleared, the engine idle
again. No saved pc, no mode change, no vector. -/
def State.raise (s : State) (k : ErrKind) : State :=
  { s with err := k.code, statusErrs := true, statusIll := false }

/-- An illegal command (60_exceptions.md R158): `ILL` and `ERRS` set, nothing else. -/
def State.illegal (s : State) : State := { s with statusIll := true, statusErrs := true }

/-! ### Payload buffer -/

/-- Bytes emitted at `PAYLOAD[PLEN]` and on, `PLEN` advanced by their number (42_bitstream.md R128 to R131). -/
def State.emit (s : State) (bs : List Byte) : State :=
  { s with
    payload := s.payload.writeList s.plen.toNat bs
    plen := s.plen + BitVec.ofNat 16 bs.length }

/-! ### The bit source (42_bitstream.md R121, R122) -/

/-- `remaining()` (R121); the difference of natural numbers is 0 when it would be negative. -/
def State.remaining (s : State) : Nat := s.databits.toNat - s.bitptr.toNat

/-- Bit k of the stream: bit `7 - (k mod 8)` of `DATA[k / 8]` (20_memory.md R42). -/
def State.streamBit (s : State) (k : Nat) : Bool := (s.data.read (k / 8)).getLsbD (7 - k % 8)

/-- The n bits of the stream from index k as a number, first bit most significant (20_memory.md R42). -/
def State.streamBits (s : State) (k n : Nat) : Nat :=
  (List.range n).foldl (fun r j => 2 * r + (s.streamBit (k + j)).toNat) 0

/-- `BITPTR <- BITPTR + n`, the only way it moves (20_memory.md R53). -/
def State.advance (s : State) (n : Nat) : State := { s with bitptr := s.bitptr + BitVec.ofNat 32 n }

/-- `take(n)` (R122): the bits and the state with the pointer moved past them. -/
def State.take (s : State) (n : Nat) : Nat × State := (s.streamBits s.bitptr.toNat n, s.advance n)

/-- `field(n)` (R122): `take(n)`, or `none` for DataUnderflow, with nothing consumed. -/
def State.field (s : State) (n : Nat) : Option (Nat × State) :=
  if s.remaining < n then none else some (s.take n)

/-! ### The decode result (10_state.md R33) -/

/-- The document's `Data` record. -/
structure DataRecord where
  version : BitVec 6
  eccLevel : BitVec 2
  maskPattern : BitVec 3
  dataType : BitVec 4
  eci : BitVec 24
  payload : List Byte
  deriving DecidableEq, Repr

/-- The record as the host reads it after a PAYLOAD that ended with `ERR = 0`; the payload's explicit length is `PLEN`
(10_state.md R33). -/
def State.dataRecord (s : State) : DataRecord where
  version := s.version
  eccLevel := s.ecclvl
  maskPattern := s.mask
  dataType := s.dtype
  eci := s.eci
  payload := (List.range s.plen.toNat).map s.payload.read

end Sys2Proof.Machine
end

