-- ==== Sys2Proof/Machine/Flags.lean ====
section
/-!
DEFINITION. The `STATUS` flags (10_state.md R12).
-/

namespace Sys2Proof.Machine

/-- The value a read of `STATUS` returns: BUSY (bit 0) and bits 31:4 always read 0 (10_state.md R12). -/
def State.statusWord (s : State) : Word :=
  (0 : BitVec 28) ++ BitVec.ofBool s.statusErrs ++ BitVec.ofBool s.statusIll ++ BitVec.ofBool s.statusZ ++ (0 : BitVec 1)

/-- A host write to `STATUS`: a 1 in bit 3 clears ERRS, nothing else happens (10_state.md R12, 20_memory.md R46). -/
def State.writeStatus (s : State) (v : Word) : State :=
  { s with statusErrs := s.statusErrs && !v.getLsbD 3 }

/-- Z as FSYN, FCORR, BSYN and BCORR compute it: 1 iff every one of the first n syndromes is zero (10_state.md R12). -/
def allZero (n : Nat) (p : List Byte) : Bool := (List.range n).all (fun i => coeff p i == 0)

/-- `STATUS.Z` written (10_state.md R12). -/
def State.setZ (s : State) (z : Bool) : State := { s with statusZ := z }

end Sys2Proof.Machine
end

