-- ==== Sys2Proof/Machine/Bus.lean ====
section
/-!
DEFINITION. Host accesses to the window (20_memory.md R40 to R47, 60_exceptions.md R159, 10_state.md R11 to R22).
-/

namespace Sys2Proof.Machine

/-- The scalar registers of 10_state.md section 1. -/
inductive RegName where
  | cmd
  | status
  | err
  | res
  | fmtraw
  | fmt
  | ecclvl
  | mask
  | version
  | databits
  | bitptr
  | plen
  | dtype
  | eci
  deriving DecidableEq, Repr

/-- What an access reaches (20_memory.md R40). -/
inductive Target where
  | reg (r : RegName)
  /-- `P[n][i]`, at its index `n * MAX_POLY + i` of the polynomial space. -/
  | poly (i : Nat)
  | cw (i : Nat)
  | data (i : Nat)
  | payload (i : Nat)
  deriving DecidableEq, Repr

/-- The register at an offset (10_state.md section 1). -/
def regAt (off : Nat) : Option RegName :=
  if off = 0x00 then some .cmd
  else if off = 0x04 then some .status
  else if off = 0x08 then some .err
  else if off = 0x0C then some .res
  else if off = 0x10 then some .fmtraw
  else if off = 0x14 then some .fmt
  else if off = 0x18 then some .ecclvl
  else if off = 0x1C then some .mask
  else if off = 0x20 then some .version
  else if off = 0x24 then some .databits
  else if off = 0x28 then some .bitptr
  else if off = 0x2C then some .plen
  else if off = 0x30 then some .dtype
  else if off = 0x34 then some .eci
  else none

/-- The buffer byte at an offset (20_memory.md R40, R47). -/
def byteAt (c : Config) (off : Nat) : Option Target :=
  if 0x100 ≤ off ∧ off < 0x100 + 8 * c.maxPoly then some (.poly (off - 0x100))
  else if 0x400 ≤ off ∧ off < 0x500 then some (.cw (off - 0x400))
  else if 0x4000 ≤ off ∧ off < 0x4000 + c.dataCap then some (.data (off - 0x4000))
  else if 0x8000 ≤ off ∧ off < 0x8000 + c.payloadCap then some (.payload (off - 0x8000))
  else none

/-- What a transfer reaches, `none` where it is a bus error: registers are aligned and 32-bit only, buffers 8-bit only
(20_memory.md R44). -/
def target (c : Config) (off : BitVec 16) (w : AccessWidth) : Option Target :=
  match w with
  | .w32 => (regAt off.toNat).map .reg
  | .w8 => byteAt c off.toNat
  | .w16 => none

/-- The value a register reads as, its unused high bits 0 (20_memory.md R45; `CMD` reads 0, 10_state.md R11). -/
def State.readReg (s : State) : RegName → Word
  | .cmd => 0
  | .status => s.statusWord
  | .err => s.err.setWidth 32
  | .res => s.res
  | .fmtraw => s.fmtraw.setWidth 32
  | .fmt => s.fmt.setWidth 32
  | .ecclvl => s.ecclvl.setWidth 32
  | .mask => s.mask.setWidth 32
  | .version => s.version.setWidth 32
  | .databits => s.databits
  | .bitptr => s.bitptr
  | .plen => s.plen.setWidth 32
  | .dtype => s.dtype.setWidth 32
  | .eci => s.eci.setWidth 32

/-- The value a target reads as (20_memory.md R45). -/
def State.readTarget (s : State) : Target → Word
  | .reg r => s.readReg r
  | .poly i => (s.poly.read i).setWidth 32
  | .cw i => (s.cw.read i).setWidth 32
  | .data i => (s.data.read i).setWidth 32
  | .payload i => (s.payload.read i).setWidth 32

/-- What a host write does to a register other than `CMD`: the writable ones store their width (10_state.md R15, R16, R19),
`STATUS` clears ERRS (R12), a read-only one is unchanged (20_memory.md R45). `CMD` stores nothing (R11). -/
def State.writeReg (s : State) (v : Word) : RegName → State
  | .cmd => s
  | .status => s.writeStatus v
  | .err => s
  | .res => s
  | .fmtraw => { s with fmtraw := v.setWidth 15 }
  | .fmt => { s with fmt := v.setWidth 15 }
  | .ecclvl => s
  | .mask => s
  | .version => s
  | .databits => { s with databits := v }
  | .bitptr => { s with bitptr := v }
  | .plen => s
  | .dtype => s
  | .eci => s

/-- The bus's answer to an access. -/
def State.respond (s : State) (r : BusResponse) : State := { s with response := some r }

/-- A refused access: an error response, no effect on the engine (60_exceptions.md R159). -/
def State.busError (s : State) : State := s.respond .busError

/-- A host read: no effect but its answer (20_memory.md R45, R46). -/
def State.hostRead (s : State) (off : BitVec 16) (w : AccessWidth) : State :=
  match target s.cfg off w with
  | some t => s.respond (.value (s.readTarget t))
  | none => s.busError

/-- What a host write asks of the engine: nothing more, or the execution of a command word (10_state.md R11). -/
inductive WriteEffect where
  | finished (s : State)
  | command (w : Word) (s : State)
  deriving DecidableEq, Repr

/-- A host write (20_memory.md R45, R46): a byte or a register stored, or a command issued; a write to `PAYLOAD` is a bus
error (R44). -/
def State.hostWrite (s : State) (off : BitVec 16) (w : AccessWidth) (v : Word) : WriteEffect :=
  match target s.cfg off w with
  | some (.reg r) => if r = .cmd then .command v (s.respond .done) else .finished ((s.writeReg v r).respond .done)
  | some (.poly i) => .finished (({ s with poly := s.poly.write i (v.setWidth 8) } : State).respond .done)
  | some (.cw i) => .finished (({ s with cw := s.cw.write i (v.setWidth 8) } : State).respond .done)
  | some (.data i) => .finished (({ s with data := s.data.write i (v.setWidth 8) } : State).respond .done)
  | some (.payload _) => .finished s.busError
  | none => .finished s.busError

/-- A host access (20_memory.md R44 to R46). -/
def State.access (s : State) : HostAccess → WriteEffect
  | .read off w => .finished (s.hostRead off w)
  | .write off w v => s.hostWrite off w v

/-- The state once the oldest access has been taken from the inbox. -/
def State.popAccess (s : State) : State := { s with inbox := s.inbox.tail }

/-- A command word that matches no row of the opcode table, for whatever reason, is an illegal command (30_encoding.md R70,
60_exceptions.md R158). -/
def State.rejectWord (s : State) (_why : DecodeError) : State := s.illegal

/-- The segment stream of one row's indicator with zero bits after it, the version a PAYLOAD needs, and a PAYLOAD to run
it: how a SEG4 row comes to be the next instruction (log entry 9). -/
def State.withSegment (s : State) (m : BitVec 4) : State :=
  { s with
    data := s.data.writeList 0 [m ++ (0 : BitVec 4), 0, 0, 0]
    databits := BitVec.ofNat 32 (min 32 (8 * s.cfg.dataCap))
    version := if s.version = 0 then 1 else s.version
    inbox := .write 0 .w32 0x22 :: s.inbox }

/-- A write of a command word placed before every other access. -/
def State.withCommand (s : State) (w : Word) : State := { s with inbox := .write 0 .w32 w :: s.inbox }

end Sys2Proof.Machine
end

