-- ==== Sys2Proof/Machine/Operands.lean ====
section
/-!
DEFINITION. What an operand of a command means (30_encoding.md R63, 40_gf_primitives.md R88) and which operands are legal
(30_encoding.md R70, 60_exceptions.md R158).
-/

namespace Sys2Proof.Machine

/-- `elem(F, v)`: a byte as an element; GF(2^4) keeps bits 3:0 (40_gf_primitives.md R88). -/
def elem : GField → Byte → Byte
  | .gf256, v => v
  | .gf16, v => v &&& 0x0F

/-- GFLOG's legal operands: `elem(F, A) != 0` (R91). -/
def gflogLegal (f : GField) (a : Byte) : Bool := elem f a != 0

/-- BM's legal operands: `N <= MAX_POLY` (R101). -/
def bmLegal (c : Config) (n : Byte) : Bool := decide (n.toNat ≤ c.maxPoly)

/-- BSYN's legal operands: `1 <= bs`, `npar <= MAX_POLY` (R108). -/
def bsynLegal (c : Config) (bs npar : Byte) : Bool := bs != 0 && decide (npar.toNat ≤ c.maxPoly)

/-- EEVP's legal operands: `1 <= npar <= MAX_POLY` (R111). -/
def eevpLegal (c : Config) (npar : Byte) : Bool := npar != 0 && decide (npar.toNat ≤ c.maxPoly)

/-- BCORR's legal operands: `1 <= bs`, `dw < bs`, `bs - dw <= MAX_POLY` (R112). -/
def bcorrLegal (c : Config) (bs dw : Byte) : Bool :=
  bs != 0 && decide (dw.toNat < bs.toNat) && decide (bs.toNat - dw.toNat ≤ c.maxPoly)

/-- The bit source lies inside `DATA`: `DATABITS <= 8 * DATA_CAP` (10_state.md R19). -/
def State.bitSourceLegal (s : State) : Bool := decide (s.databits.toNat ≤ 8 * s.cfg.dataCap)

/-- TAKE's legal operands (R123). -/
def State.takeLegal (s : State) (n : Byte) : Bool := decide (n.toNat ≤ 32) && s.bitSourceLegal

/-- The operand tests of 60_exceptions.md R158, all of them. Segments are no commands and have none (30_encoding.md R71). -/
def State.legalOperands (s : State) : Instr → Bool
  | .nop => true
  | .gfexp _ _ => true
  | .gflog f a => gflogLegal f a
  | .peval _ _ _ => true
  | .padd _ _ _ _ _ => true
  | .bm _ n => bmLegal s.cfg n
  | .fsyn => true
  | .fcorr => true
  | .bsyn bs npar => bsynLegal s.cfg bs npar
  | .eevp npar => eevpLegal s.cfg npar
  | .bcorr bs dw => bcorrLegal s.cfg bs dw
  | .vers _ => true
  | .take n => s.takeLegal n
  | .payload => s.bitSourceLegal
  | .segNum => true
  | .segAlnum => true
  | .segByte => true
  | .segKanji => true
  | .segEci => true
  | .segEnd _ => true

end Sys2Proof.Machine
end

