-- ==== Sys2Proof/Machine/Field.lean ====
section
/-!
DEFINITION. Field arithmetic over exponent and logarithm tables (40_gf_primitives.md R80 to R88) and the two polynomial
primitives (R92, R93).
-/

namespace Sys2Proof.Machine

/-- p, the number of nonzero elements (R80). -/
def GField.p : GField → Nat
  | .gf256 => 255
  | .gf16 => 15

/-- `EXP_GF256` as R84 prints it: sixteen entries a row, the row's first entry its most significant byte. The last row has
15 entries; its last byte is filled with 00 and never read. -/
def expRows256 : List Nat := [
  0x01020408102040801D3A74E8CD871326,
  0x4C982D5AB475EAC98F03060C183060C0,
  0x9D274E9C254A94356AD4B577EEC19F23,
  0x468C050A142850A05DBA69D2B96FDEA1,
  0x5FBE61C2992F5EBC65CA890F1E3C78F0,
  0xFDE7D3BB6BD6B17FFEE1DFA35BB671E2,
  0xD9AF4386112244880D1A3468D0BD67CE,
  0x811F3E7CF8EDC7933B76ECC5973366CC,
  0x85172E5CB86DDAA94F9E214284152A54,
  0xA84D9A2952A455AA49923972E4D5B773,
  0xE6D1BF63C6913F7EFCE5D7B37BF6F1FF,
  0xE3DBAB4B963162C495376EDCA557AE41,
  0x82193264C88D070E1C3870E0DDA753A6,
  0x51A259B279F2F9EFC39B2B56AC458A09,
  0x122448903D7AF4F5F7F3FBEBCB8B0B16,
  0x2C58B07DFAE9CF831B366CD8AD478E00]

/-- `LOG_GF256` as R84 prints it. The entry of element 0, printed `--`, does not exist: it is filled with 00 and never
read (`gfLog`). -/
def logRows256 : List Nat := [
  0x0000011902321AC603DF33EE1B68C74B,
  0x0464E00E348DEF811CC169F8C8084C71,
  0x058A652FE1240F2135938EDAF0128245,
  0x1DB5C27D6A27F9B9C99A09784DE472A6,
  0x06BF8B6266DD30FDE29825B310912288,
  0x36D094CE8F96DBBDF1D2135C83384640,
  0x1E42B6A3C3487E6E6B3A2854FA85BA3D,
  0xCA5E9B9F0A15792B4ED4E5AC73F3A757,
  0x0770C0F78C80630D674ADEED31C5FE18,
  0xE3A5997726B8B47C114492D92320892E,
  0x373FD15B95BCCFCD908797B2DCFCBE61,
  0xF256D3AB142A5D9E843C3953476D41A2,
  0x1F2D43D8B77BA476C41749EC7F0C6FF6,
  0x6CA13B52299D55AAFB6086B1BBCC3E5A,
  0xCB595FB09CA9A0510BF516EB7A752CD7,
  0x4FAED5E9E6E7ADE874D6F4EAA85058AF]

/-- `EXP_GF16` (R85); fifteen entries, the last byte filled with 00 and never read. -/
def expRows16 : List Nat := [0x010204080306 * 2 ^ 80 + 0x0C0B050A070E0F0D0900]

/-- `LOG_GF16` (R85); the entry of element 0 does not exist, is filled with 00 and never read. -/
def logRows16 : List Nat := [0x000001040208 * 2 ^ 80 + 0x050A030E0907060D0B0C]

/-- Entry i of a table held as rows of sixteen bytes. -/
def tableEntry (rows : List Nat) (i : Nat) : Nat := rows.getD (i / 16) 0 >>> (8 * (15 - i % 16)) % 256

/-- `EXP_F[i]`; an index outside 0..p-1 is taken mod p (R82). -/
def gfExp (f : GField) (i : Nat) : Byte :=
  match f with
  | .gf256 => BitVec.ofNat 8 (tableEntry expRows256 (i % 255))
  | .gf16 => BitVec.ofNat 8 (tableEntry expRows16 (i % 15))

/-- `LOG_F[a]`, for the elements 1 to p only: `LOG_F[0]` does not exist (R83). -/
def gfLog (f : GField) (a : Byte) : Option Nat :=
  if 1 ≤ a.toNat ∧ a.toNat ≤ GField.p f then
    match f with
    | .gf256 => some (tableEntry logRows256 a.toNat)
    | .gf16 => some (tableEntry logRows16 a.toNat)
  else none

/-- Multiplication: 0 if a factor is 0, else by the tables (R86). -/
def gfMul (f : GField) (a b : Byte) : Byte :=
  match gfLog f a, gfLog f b with
  | some i, some j => gfExp f (i + j)
  | _, _ => 0

/-- Division: 0 if the dividend is 0, else by the tables (R87). Defined for a nonzero divisor only; with divisor 0 this is
0, a case no rule reaches (log entry 7). -/
def gfDiv (f : GField) (a b : Byte) : Byte :=
  match gfLog f a, gfLog f b with
  | some i, some j => gfExp f (i + GField.p f - j)
  | _, _ => 0

/-- Power (R87). -/
def gfPow (f : GField) (a : Byte) (k : Nat) : Byte :=
  if k = 0 then 1
  else
    match gfLog f a with
    | some i => gfExp f (i * k)
    | none => 0

/-- Inverse (R87). -/
def gfInv (f : GField) (b : Byte) : Byte := gfDiv f 1 b

/-- The field sum of g 0 … g (n-1); addition is exclusive or (R81). -/
def gfSum (n : Nat) (g : Nat → Byte) : Byte := (List.range n).foldl (fun acc i => acc ^^^ g i) 0

/-- `peval(F, P, x)` over all M coefficients: 0 at x = 0, whatever P holds (R92, 90_conflicts.md C3). -/
def peval (f : GField) (m : Nat) (p : List Byte) (x : Byte) : Byte :=
  if x = 0 then 0
  else gfSum m (fun i => gfMul f (elem f (coeff p i)) (gfPow f x i))

/-- `padd(F, dst, src, c, shift)` over M coefficients: a no-op when c is 0; else positions from `shift` on are each written
once from the old source, and terms beyond M are dropped (R93). -/
def padd (f : GField) (m : Nat) (dst src : List Byte) (c : Byte) (shift : Nat) : List Byte :=
  if c = 0 then dst
  else
    (List.range m).map fun q =>
      if q < shift then coeff dst q
      else elem f (coeff dst q) ^^^ gfMul f (elem f (coeff src (q - shift))) c

end Sys2Proof.Machine
end

