-- ==== Sys2Proof/Machine/Primitives.lean ====
section
/-!
DEFINITION. The Galois-field commands NOP, GFEXP, GFLOG, PEVAL, PADD (40_gf_primitives.md R89 to R95).
-/

namespace Sys2Proof.Machine

/-- What a meaning answers. -/
abbrev Result := Host.Outcome State Fault Refusal

/-- `RES <- zext_32(v)` (10_state.md R14). -/
def State.setRes (s : State) (v : Nat) : State := { s with res := BitVec.ofNat 32 v }

/-- NOP (R89). -/
def execNop (s : State) : Result := .next s.succeed

/-- GFEXP.f idx (R90). -/
def execGfexp (f : GField) (idx : Byte) (s : State) : Result :=
  .next (s.setRes (gfExp f idx.toNat).toNat).succeed

/-- GFLOG.f a: illegal at the element 0, which is exactly where `gfLog` is `none` (R91). -/
def execGflog (f : GField) (a : Byte) (s : State) : Result :=
  match gfLog f (elem f a) with
  | some i => .next (s.setRes i).succeed
  | none => .next s.illegal

/-- PEVAL.f Ps, x (R94). -/
def execPeval (f : GField) (ps : PolyIdx) (x : Byte) (s : State) : Result :=
  .next (s.setRes (peval f s.cfg.maxPoly (s.getPoly ps.toNat) (elem f x)).toNat).succeed

/-- PADD.f Pd, Ps, c, shift (R95). -/
def execPadd (f : GField) (pd ps : PolyIdx) (c shift : Byte) (s : State) : Result :=
  .next (s.setPoly pd.toNat
    (padd f s.cfg.maxPoly (s.getPoly pd.toNat) (s.getPoly ps.toNat) (elem f c) shift.toNat)).succeed

end Sys2Proof.Machine
end

