-- ==== Sys2Proof/Machine/Bitstream.lean ====
section
/-!
DEFINITION. VERS, TAKE, PAYLOAD and the segment modes (42_bitstream.md; 30_encoding.md R64 to R69, R71, R77, R78).
-/

namespace Sys2Proof.Machine

/-! ### VERS and TAKE (R120, R123) -/

/-- VERS size: grid-size test, then version range, `VERSION` cleared on failure (R120). -/
def execVers (size : Byte) (s : State) : Result :=
  if size.toNat % 4 ≠ 1 then .next (({ s with version := 0 } : State).raise .invalidGridSize)
  else
    let v : Int := ((size.toNat : Int) - 17) / 4
    if v < 1 ∨ 40 < v then .next (({ s with version := 0 } : State).raise .invalidVersion)
    else .next ({ s with version := BitVec.ofNat 6 v.toNat } : State).succeed

/-- TAKE n (R123). -/
def execTake (n : Byte) (s : State) : Result :=
  if s.takeLegal n then
    match s.field n.toNat with
    | none => .next (s.raise .dataUnderflow)
    | some r => .next (r.2.setRes r.1).succeed
  else .next s.illegal

/-! ### The four data modes (R124, R128 to R131) -/

/-- The data modes. -/
inductive DataMode where
  | numeric
  | alphanumeric
  | byte
  | kanji
  deriving DecidableEq, Repr

/-- The mode indicator, which is also the data type code (30_encoding.md R65, 42_bitstream.md R136). -/
def DataMode.code : DataMode → BitVec 4
  | .numeric => 1
  | .alphanumeric => 2
  | .byte => 4
  | .kanji => 8

/-- `cw(mode, VERSION)`, the count field's width (R124, 30_encoding.md R66). -/
def DataMode.countWidth (m : DataMode) (version : Nat) : Nat :=
  match m with
  | .numeric => if version ≤ 9 then 10 else if version ≤ 26 then 12 else 14
  | .alphanumeric => if version ≤ 9 then 9 else if version ≤ 26 then 11 else 13
  | .byte => if version ≤ 9 then 8 else 16
  | .kanji => if version ≤ 9 then 8 else if version ≤ 26 then 10 else 12

/-- How many characters a full group of a mode holds (30_encoding.md R67). -/
def DataMode.groupSize : DataMode → Nat
  | .numeric => 3
  | .alphanumeric => 2
  | .byte => 1
  | .kanji => 1

/-- The sizes of the groups of a count: full groups, then the remainder (30_encoding.md R67). -/
def DataMode.groups (m : DataMode) (count : Nat) : List Nat :=
  List.replicate (count / m.groupSize) m.groupSize ++
    if count % m.groupSize = 0 then [] else [count % m.groupSize]

/-- The width in bits of a group of k characters (30_encoding.md R67). -/
def DataMode.groupWidth (m : DataMode) (k : Nat) : Nat :=
  match m with
  | .numeric => if k = 1 then 4 else if k = 2 then 7 else 10
  | .alphanumeric => if k = 1 then 6 else 11
  | .byte => 8
  | .kanji => 13

/-- The bytes a count declares (R134). -/
def DataMode.declared (m : DataMode) (count : Nat) : Nat :=
  match m with
  | .numeric => count
  | .alphanumeric => count
  | .byte => count
  | .kanji => 2 * count

/-- The alphanumeric alphabet as ASCII bytes (30_encoding.md R77). -/
def alphabet : List Byte := [
  0x30, 0x31, 0x32, 0x33, 0x34, 0x35, 0x36, 0x37, 0x38, 0x39,
  0x41, 0x42, 0x43, 0x44, 0x45, 0x46, 0x47, 0x48, 0x49, 0x4A, 0x4B, 0x4C, 0x4D,
  0x4E, 0x4F, 0x50, 0x51, 0x52, 0x53, 0x54, 0x55, 0x56, 0x57, 0x58, 0x59, 0x5A,
  0x20, 0x24, 0x25, 0x2A, 0x2B, 0x2D, 0x2E, 0x2F, 0x3A]

/-- The byte of an alphanumeric index, taken mod 45 (R129). -/
def alphaByte (i : Nat) : Byte := alphabet.getD (i % 45) 0

/-- The byte of a decimal digit, taken mod 10 (30_encoding.md R78, R128). -/
def digitByte (d : Nat) : Byte := BitVec.ofNat 8 (0x30 + d % 10)

/-- The Shift-JIS code of a 13-bit Kanji value (R131). -/
def kanjiCode (d : Nat) : Nat :=
  let t := d / 0xC0 * 256 + d % 0xC0
  if t + 0x8140 ≤ 0x9FFC then t + 0x8140 else t + 0xC140

/-- The bytes a group of k characters with value g emits: the last character is the value's lowest digit in base 10 or 45
(R128, R129), a byte is itself (R130), a Kanji code is its two bytes, high byte first (R131). -/
def DataMode.groupBytes (m : DataMode) (k g : Nat) : List Byte :=
  match m with
  | .numeric => (List.range k).map (fun q => digitByte (g / 10 ^ (k - 1 - q)))
  | .alphanumeric => (List.range k).map (fun q => alphaByte (g / 45 ^ (k - 1 - q)))
  | .byte => [BitVec.ofNat 8 g]
  | .kanji => [BitVec.ofNat 8 (kanjiCode g / 256), BitVec.ofNat 8 (kanjiCode g)]

/-- How a segment ends: decoded, or stopped by an error, each with the state it leaves. -/
inductive SegResult where
  | decoded (s : State)
  | stopped (k : ErrKind) (s : State)
  deriving DecidableEq, Repr

/-- The groups of a segment in order: a field, then its bytes; a field that does not fit stops the segment with nothing
consumed and the earlier bytes kept (R128 to R131, R135). -/
def decodeGroups (m : DataMode) : List Nat → State → SegResult
  | [], s => .decoded s
  | k :: ks, s =>
    match s.field (m.groupWidth k) with
    | none => .stopped .dataUnderflow s
    | some r => decodeGroups m ks (r.2.emit (m.groupBytes k r.1))

/-- A data segment: count field, overflow test on the declared length, groups (R128 to R131, R134). -/
def dataSegment (m : DataMode) (s : State) : SegResult :=
  match s.field (m.countWidth s.version.toNat) with
  | none => .stopped .dataUnderflow s
  | some r =>
    if r.2.plen.toNat + m.declared r.1 > r.2.cfg.payloadCap then .stopped .dataOverflow r.2
    else decodeGroups m (m.groups r.1) r.2

/-- `DTYPE <- max(DTYPE, mode)` after a data segment (R127). -/
def State.noteType (s : State) (m : DataMode) : State :=
  { s with dtype := if s.dtype.toNat < m.code.toNat then m.code else s.dtype }

/-! ### ECI (R132) -/

/-- `ECI <- e` (R132). -/
def State.setEci (s : State) (e : Nat) : State := { s with eci := BitVec.ofNat 24 e }

/-- The designator: 8 bits, and 8 or 16 more as its leading bits say; written only when complete (R132, 30_encoding.md R68). -/
def eciSegment (s : State) : SegResult :=
  match s.field 8 with
  | none => .stopped .dataUnderflow s
  | some r =>
    if r.1 / 64 = 0b10 then
      match r.2.field 8 with
      | none => .stopped .dataUnderflow r.2
      | some q => .decoded (q.2.setEci (r.1 * 2 ^ 8 + q.1))
    else if r.1 / 32 = 0b110 then
      match r.2.field 16 with
      | none => .stopped .dataUnderflow r.2
      | some q => .decoded (q.2.setEci (r.1 * 2 ^ 16 + q.1))
    else .decoded (r.2.setEci r.1)

/-! ### PAYLOAD (R125, R126, R133, R135) -/

/-- How one turn of the dispatch loop ends: the loop goes on, or it ends with no error or with one (R126). -/
inductive Turn where
  | more (s : State)
  | stop (e : Option ErrKind) (s : State)
  deriving DecidableEq, Repr

/-- One turn after a data mode's indicator: the segment, then the data type (R125, R127). -/
def dataTurn (m : DataMode) (s : State) : Turn :=
  match dataSegment m s with
  | .decoded s' => .more (s'.noteType m)
  | .stopped k s' => .stop (some k) s'

/-- One turn after the ECI indicator (R125, R132). -/
def eciTurn (s : State) : Turn :=
  match eciSegment s with
  | .decoded s' => .more s'
  | .stopped k s' => .stop (some k) s'

/-- `finish` (R125, R135): a full buffer gives up its last byte, the nul is written, the error, if any, raised. -/
def State.finish (s : State) (e : Option ErrKind) : State :=
  let p := if s.cfg.payloadCap ≤ s.plen.toNat then s.plen - 1 else s.plen
  let t := { s with plen := p, payload := s.payload.write p.toNat 0 }
  match e with
  | none => t.succeed
  | some k => t.raise k

/-- The state a turn leaves, the loop's end included: what the segment does as an instruction (log entry 5). -/
def Turn.settle : Turn → State
  | .more s => s
  | .stop e s => s.finish e

/-- SEG.NUM (R128). -/
def execSegNum (s : State) : Result := .next (dataTurn .numeric s).settle

/-- SEG.ALNUM (R129). -/
def execSegAlnum (s : State) : Result := .next (dataTurn .alphanumeric s).settle

/-- SEG.BYTE (R130). -/
def execSegByte (s : State) : Result := .next (dataTurn .byte s).settle

/-- SEG.KANJI (R131). -/
def execSegKanji (s : State) : Result := .next (dataTurn .kanji s).settle

/-- SEG.ECI (R132). -/
def execSegEci (s : State) : Result := .next (eciTurn s).settle

/-- One turn after an end-of-message indicator: the loop ends, no error; which of the eleven it was is read by nothing
(R133). -/
def endTurn (_mode : BitVec 4) (s : State) : Turn := .stop none s

/-- SEG.END (R133). -/
def execSegEnd (mode : BitVec 4) (s : State) : Result := .next (endTurn mode s).settle

/-- `case mode of` in PAYLOAD's loop (R125). -/
def turn (mode : BitVec 4) (s : State) : Turn :=
  if mode = 1 then dataTurn .numeric s
  else if mode = 2 then dataTurn .alphanumeric s
  else if mode = 4 then dataTurn .byte s
  else if mode = 8 then dataTurn .kanji s
  else if mode = 7 then eciTurn s
  else endTurn mode s

/-- PAYLOAD's loop (R125, R126); fewer than 4 bits end the message with nothing consumed (R133 b). The first argument
bounds the turns; PAYLOAD gives one more than the stream can hold, so it is never used up (log entry 10). -/
def payloadLoop : Nat → State → Option ErrKind × State
  | 0, s => (none, s)
  | n + 1, s =>
    if s.remaining < 4 then (none, s)
    else
      match turn (BitVec.ofNat 4 (s.take 4).1) (s.take 4).2 with
      | .more s' => payloadLoop n s'
      | .stop e s' => (e, s')

/-- The loop run to its end and `finish` (R125). -/
def State.decodeStream (s : State) : State :=
  (payloadLoop (s.remaining / 4 + 1) s).2.finish (payloadLoop (s.remaining / 4 + 1) s).1

/-- A fresh `Data` record and the pointer at bit 0 (R125, 70_reset_and_hazards.md R182). -/
def State.freshRecord (s : State) : State :=
  { s with statusIll := false, plen := 0, dtype := 0, eci := 0, bitptr := 0 }

/-- PAYLOAD (R125). -/
def execPayload (s : State) : Result :=
  if s.bitSourceLegal then
    if s.version = 0 then .next (s.freshRecord.finish (some .invalidVersion))
    else .next s.freshRecord.decodeStream
  else .next s.illegal

end Sys2Proof.Machine
end

