-- ==== Sys2Proof/Machine/ReedSolomon.lean ====
section
/-!
DEFINITION. The Reed–Solomon commands BM, FSYN, FCORR, BSYN, EEVP, BCORR (41_reed_solomon.md).
-/

namespace Sys2Proof.Machine

/-! ### Berlekamp–Massey (R100, R101) -/

/-- The working values of one run; they live inside one command only (10_state.md R31). -/
structure BmScratch where
  /-- C, the current locator. -/
  cur : List Byte
  /-- B, the locator before the last length change. -/
  prev : List Byte
  /-- L, the current length. -/
  len : Nat
  /-- m, the shift counter. -/
  shift : Nat
  /-- b, the multiplier. -/
  mult : Byte
  deriving DecidableEq, Repr

/-- The polynomial 1, in M coefficients. -/
def polyOne (m : Nat) : List Byte := (List.range m).map (fun i => if i = 0 then 1 else 0)

/-- The values before step 0 (R100). -/
def bmInit (m : Nat) : BmScratch := { cur := polyOne m, prev := polyOne m, len := 0, shift := 1, mult := 1 }

/-- The discrepancy of step n (R100). -/
def bmDiscrepancy (f : GField) (syn : List Byte) (n : Nat) (t : BmScratch) : Byte :=
  elem f (coeff syn n) ^^^
    gfSum t.len (fun i => gfMul f (coeff t.cur (i + 1)) (elem f (coeff syn (n - (i + 1)))))

/-- Step n (R100). -/
def bmStep (f : GField) (m : Nat) (syn : List Byte) (t : BmScratch) (n : Nat) : BmScratch :=
  let d := bmDiscrepancy f syn n t
  if d = 0 then { t with shift := t.shift + 1 }
  else
    let next := padd f m t.cur t.prev (gfDiv f d t.mult) t.shift
    if 2 * t.len ≤ n then
      { cur := next, prev := t.cur, len := n + 1 - t.len, shift := 1, mult := d }
    else { t with cur := next, shift := t.shift + 1 }

/-- The scratch after the first n steps. -/
def bmRun (f : GField) (m : Nat) (syn : List Byte) (n : Nat) : BmScratch :=
  (List.range n).foldl (bmStep f m syn) (bmInit m)

/-- `bm(F, S, N)` (R100). -/
def bm (f : GField) (m : Nat) (syn : List Byte) (n : Nat) : List Byte := (bmRun f m syn n).cur

/-- BM.f N (R101). -/
def execBm (f : GField) (n : Byte) (s : State) : Result :=
  if bmLegal s.cfg n then
    .next (s.setPoly regSIGMA (bm f s.cfg.maxPoly (s.getPoly regS) n.toNat)).succeed
  else .next s.illegal

/-! ### Format word (R102 to R105) -/

/-- Syndrome i of a format word: its polynomial at alpha^(i+1), bit j the coefficient of x^j (R102). -/
def formatSyndrome (u : BitVec 15) (i : Nat) : Byte :=
  gfSum 15 (fun j => if u.getLsbD j then gfExp .gf16 ((i + 1) * j) else 0)

/-- What `fsyn(u)` leaves in S: six syndromes, then zeros (R102). -/
def formatSyndromes (m : Nat) (u : BitVec 15) : List Byte :=
  (List.range m).map (fun i => if i < 6 then formatSyndrome u i else 0)

/-- What `fsyn(u)` returns: all six syndromes are zero (R102). -/
def formatClean (u : BitVec 15) : Bool := (List.range 6).all (fun i => formatSyndrome u i == 0)

/-- `fsyn(u)`'s effect on S (R102). -/
def State.putFormatSyndromes (s : State) (u : BitVec 15) : State :=
  s.setPoly regS (formatSyndromes s.cfg.maxPoly u)

/-- FSYN (R103). -/
def execFsyn (s : State) : Result :=
  .next ((s.putFormatSyndromes s.fmt).setZ (formatClean s.fmt)).succeed

/-- The canonical XOR mask (30_encoding.md R75). -/
def formatMask : BitVec 15 := 0x5412

/-- Whether position i of a 15-bit word is a root of the locator: alpha^(-i) (R104). -/
def formatRoot (m : Nat) (sigma : List Byte) (i : Nat) : Bool :=
  peval .gf16 m sigma (gfExp .gf16 ((15 - i) % 15)) == 0

/-- The word with every located bit flipped (R104). -/
def flipLocated (m : Nat) (sigma : List Byte) (u : BitVec 15) : BitVec 15 :=
  (List.range 15).foldl (fun v i => if formatRoot m sigma i then v ^^^ (1#15 <<< i) else v) u

/-- The accepted word and the two fields it carries: `ECCLVL = v[14:13]`, `MASK = v[12:10]` (R104, R105). -/
def State.acceptFormat (s : State) (v : BitVec 15) : State :=
  { s with fmt := v, ecclvl := v.extractLsb' 13 2, mask := v.extractLsb' 10 3 }

/-- FCORR (R104, R105; on failure 60_exceptions.md R153). -/
def execFcorr (s : State) : Result :=
  let u := s.fmtraw ^^^ formatMask
  let s1 := (({ s with fmt := u } : State).putFormatSyndromes u).setZ (formatClean u)
  if formatClean u then .next (s1.acceptFormat u).succeed
  else
    let sigma := bm .gf16 s.cfg.maxPoly (formatSyndromes s.cfg.maxPoly u) 6
    let v := flipLocated s.cfg.maxPoly sigma u
    let s2 := (s1.setPoly regSIGMA sigma).putFormatSyndromes v
    if formatClean v then .next (s2.acceptFormat v).succeed
    else .next (s2.raise .formatEcc)

/-! ### Codeword blocks (R107 to R112) -/

/-- Syndrome i of the block `CW[0..bs-1]`: its polynomial at alpha^i, `CW[bs-1-j]` the coefficient of x^j (R107). -/
def blockSyndrome (cw : Memory) (bs i : Nat) : Byte :=
  gfSum bs (fun j => gfMul .gf256 (cw.read (bs - 1 - j)) (gfPow .gf256 2 (i * j)))

/-- What `bsyn(bs, npar)` leaves in S: npar syndromes, then zeros (R107). -/
def blockSyndromes (m : Nat) (cw : Memory) (bs npar : Nat) : List Byte :=
  (List.range m).map (fun i => if i < npar then blockSyndrome cw bs i else 0)

/-- What `bsyn(bs, npar)` returns (R107). -/
def blockClean (cw : Memory) (bs npar : Nat) : Bool :=
  (List.range npar).all (fun i => blockSyndrome cw bs i == 0)

/-- `bsyn(bs, npar)`'s effect on S (R107). -/
def State.putBlockSyndromes (s : State) (bs npar : Nat) : State :=
  s.setPoly regS (blockSyndromes s.cfg.maxPoly s.cw bs npar)

/-- BSYN bs, npar (R108). -/
def execBsyn (bs npar : Byte) (s : State) : Result :=
  if bsynLegal s.cfg bs npar then
    .next ((s.putBlockSyndromes bs.toNat npar.toNat).setZ (blockClean s.cw bs.toNat npar.toNat)).succeed
  else .next s.illegal

/-- `deriv(P)`: the formal derivative in characteristic 2 (R109). -/
def deriv (m : Nat) (p : List Byte) : List Byte :=
  (List.range m).map (fun i => if i % 2 = 0 ∧ i + 1 < m then coeff p (i + 1) else 0)

/-- `eevp(npar)`: `SIGMA(x) * S1(x) mod x^(npar-1)`, S1 the syndromes from S[1] on; coefficient k is the sum over
i + j = k of `SIGMA[i] * S[j+1]` (R110). -/
def eevp (m : Nat) (sigma syn : List Byte) (npar : Nat) : List Byte :=
  (List.range m).map (fun k =>
    if k + 1 < npar then gfSum (k + 1) (fun i => gfMul .gf256 (coeff sigma i) (coeff syn (k - i + 1))) else 0)

/-- EEVP npar (R111). -/
def execEevp (npar : Byte) (s : State) : Result :=
  if eevpLegal s.cfg npar then
    .next ((s.setPoly regOMEGA
        (eevp s.cfg.maxPoly (s.getPoly regSIGMA) (s.getPoly regS) npar.toNat)).setPoly regDSIGMA
        (deriv s.cfg.maxPoly (s.getPoly regSIGMA))).succeed
  else .next s.illegal

/-- Forney's correction at candidate position i: at a root of the locator whose derivative is not 0, `CW[bs-1-i]` takes
evaluator over derivative (R112). -/
def forneyAt (m : Nat) (sigma omega dsigma : List Byte) (bs : Nat) (cw : Memory) (i : Nat) : Memory :=
  let xinv := gfExp .gf256 ((255 - i) % 255)
  if peval .gf256 m sigma xinv = 0 then
    let sd := peval .gf256 m dsigma xinv
    let ox := peval .gf256 m omega xinv
    if sd = 0 then cw else cw.write (bs - 1 - i) (cw.read (bs - 1 - i) ^^^ gfDiv .gf256 ox sd)
  else cw

/-- Every candidate position of the block, in rising order (R112). -/
def forney (m : Nat) (sigma omega dsigma : List Byte) (bs : Nat) (cw : Memory) : Memory :=
  (List.range bs).foldl (forneyAt m sigma omega dsigma bs) cw

/-- BCORR bs, dw (R112, R113; on failure 60_exceptions.md R154). -/
def execBcorr (bs dw : Byte) (s : State) : Result :=
  if bcorrLegal s.cfg bs dw then
    let m := s.cfg.maxPoly
    let n := bs.toNat
    let npar := bs.toNat - dw.toNat
    let s1 := (s.putBlockSyndromes n npar).setZ (blockClean s.cw n npar)
    if blockClean s.cw n npar then .next s1.succeed
    else
      let syn := blockSyndromes m s.cw n npar
      let sigma := bm .gf256 m syn npar
      let dsigma := deriv m sigma
      let omega := eevp m sigma syn npar
      let cw := forney m sigma omega dsigma n s.cw
      let s2 := ((s1.setPoly regSIGMA sigma).setPoly regOMEGA omega).setPoly regDSIGMA dsigma
      let s3 := ({ s2 with cw := cw } : State).putBlockSyndromes n npar
      if blockClean cw n npar then .next s3.succeed
      else .next (s3.raise .blockEcc)
  else .next s.illegal

end Sys2Proof.Machine
end

