-- ==== Sys2Proof/Machine/Dispatch.lean ====
section
/-!
DEFINITION. One arm per instruction.
-/

namespace Sys2Proof.Machine

def exec (i : Instr) (s : State) : Host.Outcome State Fault Refusal :=
  match i with
  | .nop => Sys2Proof.Machine.execNop s
  | .gfexp f idx => Sys2Proof.Machine.execGfexp f idx s
  | .gflog f a => Sys2Proof.Machine.execGflog f a s
  | .peval f ps x => Sys2Proof.Machine.execPeval f ps x s
  | .padd f pd ps c shift => Sys2Proof.Machine.execPadd f pd ps c shift s
  | .bm f n => Sys2Proof.Machine.execBm f n s
  | .fsyn => Sys2Proof.Machine.execFsyn s
  | .fcorr => Sys2Proof.Machine.execFcorr s
  | .bsyn bs npar => Sys2Proof.Machine.execBsyn bs npar s
  | .eevp npar => Sys2Proof.Machine.execEevp npar s
  | .bcorr bs dw => Sys2Proof.Machine.execBcorr bs dw s
  | .vers size => Sys2Proof.Machine.execVers size s
  | .take n => Sys2Proof.Machine.execTake n s
  | .payload => Sys2Proof.Machine.execPayload s
  | .segNum => Sys2Proof.Machine.execSegNum s
  | .segAlnum => Sys2Proof.Machine.execSegAlnum s
  | .segByte => Sys2Proof.Machine.execSegByte s
  | .segKanji => Sys2Proof.Machine.execSegKanji s
  | .segEci => Sys2Proof.Machine.execSegEci s
  | .segEnd mode => Sys2Proof.Machine.execSegEnd mode s

end Sys2Proof.Machine
end

