-- ==== Sys2Proof/Machine/Step.lean ====
section
/-!
DEFINITION. One step: one host access (20_memory.md R49, R50). With none left the engine is idle and waits
(70_reset_and_hazards.md R172).
-/

namespace Sys2Proof.Machine

/-- A command word executed to completion: its instruction's meaning, or an illegal command (10_state.md R11,
60_exceptions.md R161). -/
def runWord (w : Word) (s : State) : Host.Outcome State Fault Refusal :=
  match decode (.cmd32 w) with
  | .ok i => exec i s
  | .error e => .next (s.rejectWord e)

/-- The effect of an access: none left to do, or a command to run. -/
def runEffect : WriteEffect → Host.Outcome State Fault Refusal
  | .finished s => .next s
  | .command w s => runWord w s

/-- One step of the machine. -/
def step (s : State) : Host.Outcome State Fault Refusal :=
  match s.inbox with
  | [] => .next s
  | a :: _ => runEffect (s.popAccess.access a)

/-- The host's entry: the state whose very next step runs the row's instruction (log entries 1 and 9). -/
def State.withFetchWord (s : State) (nbits w : Nat) : State :=
  if nbits ≤ 8 then s.withSegment (BitVec.ofNat 4 w) else s.withCommand (BitVec.ofNat 32 w)

end Sys2Proof.Machine
end

