-- ==== Sys2Proof/Safety.lean ====
section
/-!
DEFINITION. What holds of the engine between host accesses, in the terms the statements use.
-/

namespace Sys2Proof.Machine

/-- The invariant of the engine between two host accesses. -/
structure State.Inv (s : State) : Prop where
  /-- The parameters are in the bounds of 00_scope.md R5, R6. -/
  config : s.cfg.wf
  /-- Each byte space is in canonical form and inside its size (20_memory.md R40, R54). -/
  polyWf : s.poly.wf
  polyBelow : s.poly.below (8 * s.cfg.maxPoly)
  cwWf : s.cw.wf
  cwBelow : s.cw.below 256
  dataWf : s.data.wf
  dataBelow : s.data.below s.cfg.dataCap
  payloadWf : s.payload.wf
  payloadBelow : s.payload.below s.cfg.payloadCap
  /-- `ERR` is never 7 (60_exceptions.md R157). -/
  errKind : s.err ≠ 7
  /-- `VERSION` is 0 or 1 to 40 (10_state.md R18). -/
  versionRange : s.version.toNat ≤ 40
  /-- `0 <= PLEN <= PAYLOAD_CAP - 1` (10_state.md R20). -/
  plenRange : s.plen.toNat < s.cfg.payloadCap
  /-- `PAYLOAD[PLEN] = 0` (10_state.md R29). -/
  nul : s.payload.read s.plen.toNat = 0
  /-- `DTYPE` is 0 or a single-bit mode (10_state.md R21). -/
  dtypeCode : s.dtype = 0 ∨ s.dtype = 1 ∨ s.dtype = 2 ∨ s.dtype = 4 ∨ s.dtype = 8

end Sys2Proof.Machine
end

