-- ==== Sys2Proof/Certificates/Slice0/Obligations.lean ====
section
/-!
DEFINITION. The statements for the provers. The host's accesses (`inbox`) and the bus's answers (`response`) are the model's
own fields (log entries 1 and 2), and a segment as an instruction of its own is the model's reading of PAYLOAD's loop (log
entry 5): statements that speak of them say so.
-/

namespace Sys2Proof.Stmt

open Sys2Proof Sys2Proof.Machine

/-! ### Words and decoding -/

/-- A command word as the sum of its fields at their places (30_encoding.md R60). -/
def word (op f pd ps a b : Nat) : Word :=
  BitVec.ofNat 32 (op + 2 ^ 8 * f + 2 ^ 9 * pd + 2 ^ 12 * ps + 2 ^ 16 * a + 2 ^ 24 * b)

/-- F as a number (30_encoding.md R60). -/
def fbit : GField → Nat
  | .gf256 => 0
  | .gf16 => 1

/-- The command word decodes to the instruction. -/
def Decodes (w : Word) (i : Instr) : Prop := decode (.cmd32 w) = .ok i

/-- An instruction that is a command, not a segment. -/
def isCommand : Instr → Bool
  | .nop => true
  | .gfexp _ _ => true
  | .gflog _ _ => true
  | .peval _ _ _ => true
  | .padd _ _ _ _ _ => true
  | .bm _ _ => true
  | .fsyn => true
  | .fcorr => true
  | .bsyn _ _ => true
  | .eevp _ => true
  | .bcorr _ _ => true
  | .vers _ => true
  | .take _ => true
  | .payload => true
  | .segNum => false
  | .segAlnum => false
  | .segByte => false
  | .segKanji => false
  | .segEci => false
  | .segEnd _ => false

/-! ### Field arithmetic, written from the polynomials -/

/-- Multiplication by x modulo the field's polynomial (40_gf_primitives.md R82). -/
def xtime : GField → Byte → Byte
  | .gf256, a => (a <<< 1) ^^^ (if a.getLsbD 7 then 0x1D else 0)
  | .gf16, a => (a <<< 1) ^^^ (if a.getLsbD 3 then 0x13 else 0)

/-- The product of two residues: the sum of `a x^i` over the set bits i of b (40_gf_primitives.md R86). -/
def polyMul (f : GField) (a b : Byte) : Byte :=
  (List.range 8).foldl (fun acc i => if b.getLsbD i then acc ^^^ Nat.iterate (xtime f) i a else acc) 0

/-- A byte that is an element of the field (40_gf_primitives.md R81). -/
def IsElem : GField → Byte → Prop
  | .gf256, _ => True
  | .gf16, a => a.toNat < 16

/-- Horner's rule over the first m coefficients (40_gf_primitives.md R92). -/
def horner (f : GField) (m : Nat) (c : Nat → Byte) (x : Byte) : Byte :=
  (List.range m).foldr (fun i acc => gfMul f acc x ^^^ elem f (c i)) 0

/-! ### Polynomial space -/

/-- Coefficient i of register n, read from a polynomial space of M coefficients a register (10_state.md R24). -/
def coefAt (mem : Memory) (m n i : Nat) : Byte := mem.read (n * m + i)

/-- The bytes of every register but those listed are unchanged. -/
def PolyFrame (before after : Memory) (m : Nat) (written : List Nat) : Prop :=
  ∀ a, (∀ n ∈ written, a < n * m ∨ n * m + m ≤ a) → after.read a = before.read a

/-! ### The evaluator's two loops, literally (41_reed_solomon.md R110) -/

/-- `W` after the two nested loops. -/
def eevpLoops (sigma syn : Nat → Byte) (npar : Nat) : Nat → Byte :=
  (List.range (npar - 1)).foldl (fun w i =>
    (List.range (npar - 1 - i)).foldl (fun w j k =>
      if k = i + j then w k ^^^ gfMul .gf256 (sigma i) (syn (j + 1)) else w k) w) (fun _ => 0)

/-! ### The bit stream -/

/-- Bit k of the stream (20_memory.md R42). -/
def bit (s : State) (k : Nat) : Nat := if (s.data.read (k / 8)).getLsbD (7 - k % 8) then 1 else 0

/-- The field of n bits at index k, its first bit the most significant (20_memory.md R42). -/
def bits (s : State) (k n : Nat) : Nat := ((List.range n).map (fun j => bit s (k + j) * 2 ^ (n - 1 - j))).sum

/-- Bits not yet read (42_bitstream.md R121). -/
def left (s : State) : Nat := s.databits.toNat - s.bitptr.toNat

/-- The version tier (42_bitstream.md R124). -/
def tier (s : State) : Nat := if s.version.toNat ≤ 9 then 0 else if s.version.toNat ≤ 26 then 1 else 2

/-- The dispatch loop of PAYLOAD, each of its three ends, and `finish`, as a relation with no bound on the turns
(42_bitstream.md R125, R126, R133). -/
inductive StreamRun : State → State → Prop
  | short {s : State} : left s < 4 → StreamRun s (s.finish none)
  | onward {s s' t : State} : 4 ≤ left s →
      turn (BitVec.ofNat 4 (bits s s.bitptr.toNat 4)) (s.advance 4) = .more s' → StreamRun s' t → StreamRun s t
  | ended {s s' : State} {e : Option ErrKind} : 4 ≤ left s →
      turn (BitVec.ofNat 4 (bits s s.bitptr.toNat 4)) (s.advance 4) = .stop e s' → StreamRun s (s'.finish e)

/-- The instruction of a data mode (30_encoding.md R65). -/
def modeInstr : DataMode → Instr
  | .numeric => .segNum
  | .alphanumeric => .segAlnum
  | .byte => .segByte
  | .kanji => .segKanji

/-- The count width by mode and tier (30_encoding.md R66). -/
def countWidth : DataMode → Nat → Nat
  | .numeric, t => [10, 12, 14].getD t 0
  | .alphanumeric, t => [9, 11, 13].getD t 0
  | .byte, t => [8, 16, 16].getD t 0
  | .kanji, t => [8, 10, 12].getD t 0

/-- The bytes a count declares (42_bitstream.md R134). -/
def declared : DataMode → Nat → Nat
  | .numeric, n => n
  | .alphanumeric, n => n
  | .byte, n => n
  | .kanji, n => 2 * n

/-- `DTYPE` after a data segment of a mode (42_bitstream.md R127). -/
def typeMax (s : State) (mode : BitVec 4) : BitVec 4 := if s.dtype.toNat < mode.toNat then mode else s.dtype

/-- A byte of `PAYLOAD` after bytes `g 0 … g (n-1)` were emitted at `PLEN`. -/
def Emitted (s : State) (after : Memory) (n : Nat) (g : Nat → Byte) : Prop :=
  (∀ q < n, after.read (s.plen.toNat + q) = g q) ∧
  ∀ a, (a < s.plen.toNat ∨ s.plen.toNat + n ≤ a) → after.read a = s.payload.read a

/-- The two-byte code of a 13-bit Kanji value (42_bitstream.md R131). -/
def shiftJis (d : Nat) : Nat :=
  if 256 * (d / 0xC0) + d % 0xC0 + 0x8140 ≤ 0x9FFC then 256 * (d / 0xC0) + d % 0xC0 + 0x8140
  else 256 * (d / 0xC0) + d % 0xC0 + 0xC140

/-- Where the ending places the nul when nothing more is emitted: at `PLEN`, and in the place of the last byte when the
buffer is exactly full (42_bitstream.md R135). -/
def nulAt (s : State) : Nat := if s.plen.toNat = s.cfg.payloadCap then s.cfg.payloadCap - 1 else s.plen.toNat

/-- The payload with that nul and no other change. -/
def NulPlaced (s : State) (after : Memory) : Prop :=
  ∀ a, after.read a = if a = nulAt s then 0 else s.payload.read a

/-! ### Illegal operands (60_exceptions.md R158, the table) -/

/-- "illegal when", command by command. -/
def illegalOperands (s : State) : Instr → Prop
  | .nop => False
  | .gfexp _ _ => False
  | .gflog f a => elem f a = 0
  | .peval _ _ _ => False
  | .padd _ _ _ _ _ => False
  | .bm _ n => s.cfg.maxPoly < n.toNat
  | .fsyn => False
  | .fcorr => False
  | .bsyn bs npar => bs.toNat = 0 ∨ s.cfg.maxPoly < npar.toNat
  | .eevp npar => npar.toNat = 0 ∨ s.cfg.maxPoly < npar.toNat
  | .bcorr bs dw => bs.toNat = 0 ∨ bs.toNat ≤ dw.toNat ∨ s.cfg.maxPoly < bs.toNat - dw.toNat
  | .vers _ => False
  | .take n => 32 < n.toNat ∨ 8 * s.cfg.dataCap < s.databits.toNat
  | .payload => 8 * s.cfg.dataCap < s.databits.toNat
  | .segNum => False
  | .segAlnum => False
  | .segByte => False
  | .segKanji => False
  | .segEci => False
  | .segEnd _ => False

/-! ### Host accesses (20_memory.md R44) -/

/-- An offset of a buffer the host may write. -/
def writableByte (c : Config) (off : Nat) : Prop :=
  (0x100 ≤ off ∧ off < 0x100 + 8 * c.maxPoly) ∨ (0x400 ≤ off ∧ off ≤ 0x4FF) ∨
    (0x4000 ≤ off ∧ off < 0x4000 + c.dataCap)

/-- An aligned register offset. -/
def registerOffset (off : Nat) : Prop := off % 4 = 0 ∧ off ≤ 0x34

/-- R44 for reads. -/
def LegalRead (c : Config) (off : BitVec 16) (w : AccessWidth) : Prop :=
  (w = .w32 ∧ registerOffset off.toNat) ∨
  (w = .w8 ∧ (writableByte c off.toNat ∨ (0x8000 ≤ off.toNat ∧ off.toNat < 0x8000 + c.payloadCap)))

/-- R44 for writes. -/
def LegalWrite (c : Config) (off : BitVec 16) (w : AccessWidth) : Prop :=
  (w = .w32 ∧ registerOffset off.toNat) ∨ (w = .w8 ∧ writableByte c off.toNat)

/-! ### Which state an instruction may write (70_reset_and_hazards.md R180) -/

/-- The polynomial registers an instruction may write. -/
def polyWrites : Instr → List Nat
  | .nop => []
  | .gfexp _ _ => []
  | .gflog _ _ => []
  | .peval _ _ _ => []
  | .padd _ pd _ _ _ => [pd.toNat]
  | .bm _ _ => [1]
  | .fsyn => [0]
  | .fcorr => [0, 1]
  | .bsyn _ _ => [0]
  | .eevp _ => [2, 3]
  | .bcorr _ _ => [0, 1, 2, 3]
  | .vers _ => []
  | .take _ => []
  | .payload => []
  | .segNum => []
  | .segAlnum => []
  | .segByte => []
  | .segKanji => []
  | .segEci => []
  | .segEnd _ => []

/-- The located bytes of `CW` an instruction may write: those below this index. -/
def cwWrites : Instr → Nat
  | .bcorr bs _ => bs.toNat
  | _ => 0

/-- Instructions that may write `RES`. -/
def writesRes : Instr → Bool
  | .gfexp _ _ => true
  | .gflog _ _ => true
  | .peval _ _ _ => true
  | .take _ => true
  | _ => false

/-- Instructions that may write `STATUS.Z`. -/
def writesZ : Instr → Bool
  | .fsyn => true
  | .fcorr => true
  | .bsyn _ _ => true
  | .bcorr _ _ => true
  | _ => false

/-- Instructions that may write `BITPTR`. -/
def writesBitptr : Instr → Bool
  | .take _ => true
  | .payload => true
  | .segNum => true
  | .segAlnum => true
  | .segByte => true
  | .segKanji => true
  | .segEci => true
  | _ => false

/-- Instructions that may write `PLEN` and `PAYLOAD`: PAYLOAD and the segments it runs. -/
def writesPayload : Instr → Bool
  | .payload => true
  | .segNum => true
  | .segAlnum => true
  | .segByte => true
  | .segKanji => true
  | .segEci => true
  | .segEnd _ => true
  | _ => false

/-- Instructions that may write `DTYPE`. -/
def writesDtype : Instr → Bool
  | .payload => true
  | .segNum => true
  | .segAlnum => true
  | .segByte => true
  | .segKanji => true
  | _ => false

/-- Instructions that may write `ECI`. -/
def writesEci : Instr → Bool
  | .payload => true
  | .segEci => true
  | _ => false

end Sys2Proof.Stmt

open Sys2Proof Sys2Proof.Machine Sys2Proof.Stmt

/-! ### Fields (40_gf_primitives.md R80 to R88, R96) -/

/-- R82: the table is the powers of x, from 1, by the recurrence; indices are taken mod p; x is a generator. -/
def Obligations.ExpTableFollowsRecurrence : Prop :=
  ∀ f : GField,
    gfExp f 0 = 1 ∧
    (∀ i, gfExp f (i + 1) = xtime f (gfExp f i)) ∧
    (∀ k, gfExp f k = gfExp f (k % GField.p f)) ∧
    gfExp f (GField.p f) = 1 ∧ ∀ i, 0 < i → i < GField.p f → gfExp f i ≠ 1

/-- R83: the logarithm of an element is the one index below p whose power it is; 0 has none, and GFLOG refuses it. -/
def Obligations.LogIsTheUniqueExponent : Prop :=
  ∀ (f : GField) (a : Byte),
    (∀ i, gfLog f a = some i ↔ i < GField.p f ∧ gfExp f i = a) ∧
    (1 ≤ a.toNat → a.toNat ≤ GField.p f → ∃ i, gfLog f a = some i) ∧
    gfLog f 1 = some 0 ∧ gfLog f 0 = none ∧
    ∀ s : State, exec (.gflog f 0) s = .next { s with statusIll := true, statusErrs := true }

/-- R86: the table form of multiplication, and that it is the product of residues modulo the field's polynomial. -/
def Obligations.GfMulIsPolynomialProduct : Prop :=
  ∀ (f : GField) (a b : Byte), IsElem f a → IsElem f b →
    (a = 0 ∨ b = 0 → gfMul f a b = 0) ∧
    (∀ i j, gfLog f a = some i → gfLog f b = some j → gfMul f a b = gfExp f ((i + j) % GField.p f)) ∧
    gfMul f a b = polyMul f a b

/-- R96, the laws of the arithmetic on elements. -/
def Obligations.FieldArithmeticLaws : Prop :=
  ∀ (f : GField) (a b c : Byte), IsElem f a → IsElem f b → IsElem f c →
    gfMul f a b = gfMul f b a ∧
    gfMul f (gfMul f a b) c = gfMul f a (gfMul f b c) ∧
    gfMul f a (b ^^^ c) = gfMul f a b ^^^ gfMul f a c ∧
    gfMul f a 1 = a ∧ gfMul f a 0 = 0 ∧
    (b ≠ 0 → gfMul f (gfDiv f a b) b = a) ∧
    (a ≠ 0 → gfPow f a (GField.p f) = 1)

/-! ### The Galois-field commands -/

/-- R89. -/
def Obligations.NopClearsErrAndIll : Prop :=
  Decodes (word 0x00 0 0 0 0 0) .nop ∧
  ∀ s : State, exec .nop s = .next { s with err := 0, statusIll := false }

/-- R90. -/
def Obligations.GfexpLoadsTableEntry : Prop :=
  ∀ (f : GField) (idx : Byte),
    Decodes (word 0x01 (fbit f) 0 0 idx.toNat 0) (.gfexp f idx) ∧
    ∀ s : State, exec (.gfexp f idx) s =
      .next { s with res := (gfExp f (idx.toNat % GField.p f)).setWidth 32, err := 0, statusIll := false }

/-- R91. -/
def Obligations.GflogLoadsLogarithm : Prop :=
  ∀ (f : GField) (a : Byte),
    Decodes (word 0x02 (fbit f) 0 0 a.toNat 0) (.gflog f a) ∧
    (elem f a = 0 → ∀ s : State, exec (.gflog f a) s = .next { s with statusIll := true, statusErrs := true }) ∧
    (elem f a ≠ 0 → ∃ i, i < GField.p f ∧ gfExp f i = elem f a ∧
      ∀ s : State, exec (.gflog f a) s = .next { s with res := BitVec.ofNat 32 i, err := 0, statusIll := false })

/-- R94 with R92: 0 at x = 0, else the polynomial's value, here by Horner's rule over the register's coefficients. -/
def Obligations.PevalIsHornerAwayFromZero : Prop :=
  ∀ (f : GField) (ps : PolyIdx) (x : Byte),
    Decodes (word 0x03 (fbit f) 0 ps.toNat x.toNat 0) (.peval f ps x) ∧
    ∀ s : State, exec (.peval f ps x) s =
      .next { s with
        res := (if elem f x = 0 then 0#8
          else horner f s.cfg.maxPoly (fun i => coefAt s.poly s.cfg.maxPoly ps.toNat i) (elem f x)).setWidth 32
        err := 0
        statusIll := false }

/-- R95 with R93: each position from the shift on takes the scaled old source, positions below it and a zero scale leave
the destination as it was, and no other byte changes. -/
def Obligations.PaddAddsScaledShiftedSource : Prop :=
  ∀ (f : GField) (pd ps : PolyIdx) (c shift : Byte),
    Decodes (word 0x04 (fbit f) pd.toNat ps.toNat c.toNat shift.toNat) (.padd f pd ps c shift) ∧
    ∀ s : State, ∃ mem : Memory,
      exec (.padd f pd ps c shift) s = .next { s with poly := mem, err := 0, statusIll := false } ∧
      PolyFrame s.poly mem s.cfg.maxPoly [pd.toNat] ∧
      ∀ q < s.cfg.maxPoly, coefAt mem s.cfg.maxPoly pd.toNat q =
        if elem f c ≠ 0 ∧ shift.toNat ≤ q then
          elem f (coefAt s.poly s.cfg.maxPoly pd.toNat q) ^^^
            gfMul f (elem f (coefAt s.poly s.cfg.maxPoly ps.toNat (q - shift.toNat))) (elem f c)
        else coefAt s.poly s.cfg.maxPoly pd.toNat q

/-! ### Berlekamp–Massey -/

/-- R101. -/
def Obligations.BmWritesLocator : Prop :=
  ∀ (f : GField) (n : Byte),
    Decodes (word 0x10 (fbit f) 0 0 n.toNat 0) (.bm f n) ∧
    ∀ s : State,
      (s.cfg.maxPoly < n.toNat → exec (.bm f n) s = .next { s with statusIll := true, statusErrs := true }) ∧
      (n.toNat ≤ s.cfg.maxPoly → ∃ mem : Memory,
        exec (.bm f n) s = .next { s with poly := mem, err := 0, statusIll := false } ∧
        PolyFrame s.poly mem s.cfg.maxPoly [1] ∧
        ∀ i < s.cfg.maxPoly, coefAt mem s.cfg.maxPoly 1 i = coeff (bm f s.cfg.maxPoly (s.getPoly 0) n.toNat) i)

/-- R114: bm is a function of the field, the first N syndromes and N, with no failure; all-zero syndromes and N = 0 give
[1, 0, 0, ...]. -/
def Obligations.BmIsTotalAndTrivialOnZeroSyndromes : Prop :=
  ∀ (f : GField) (m n : Nat) (syn : List Byte),
    (∀ syn' : List Byte, (∀ i < n, elem f (coeff syn i) = elem f (coeff syn' i)) → bm f m syn n = bm f m syn' n) ∧
    (∀ (a : Byte) (s : State), a.toNat ≤ s.cfg.maxPoly → ∃ t, exec (.bm f a) s = .next t ∧ t.err = 0) ∧
    ((∀ i < n, elem f (coeff syn i) = 0) → ∀ i < m, coeff (bm f m syn n) i = if i = 0 then 1 else 0) ∧
    (∀ i < m, coeff (bm f m syn 0) i = if i = 0 then 1 else 0)

/-- R100, the facts a model may check: the multiplier is never 0, the length is at most the step, the shift counter is
positive, C[0] is 1. -/
def Obligations.BmScratchFacts : Prop :=
  ∀ (f : GField) (m n : Nat) (syn : List Byte), 0 < m →
    (bmRun f m syn n).mult ≠ 0 ∧ (bmRun f m syn n).len ≤ n ∧ 1 ≤ (bmRun f m syn n).shift ∧
      coeff (bmRun f m syn n).cur 0 = 1

/-- The locator generates the syndromes: with L the final length, every later syndrome is the locator's recurrence of the
L before it. -/
def Obligations.BmLocatorGeneratesSyndromes : Prop :=
  ∀ (f : GField) (m n : Nat) (syn : List Byte), n ≤ m →
    ∀ k, (bmRun f m syn n).len ≤ k → k < n →
      gfSum ((bmRun f m syn n).len + 1)
        (fun i => gfMul f (coeff (bm f m syn n) i) (elem f (coeff syn (k - i)))) = 0

/-! ### Format word -/

/-- R103 with R102. -/
def Obligations.FsynWritesFormatSyndromes : Prop :=
  Decodes (word 0x11 0 0 0 0 0) .fsyn ∧
  ∀ s : State, 6 ≤ s.cfg.maxPoly → ∃ (mem : Memory) (z : Bool),
    exec .fsyn s = .next { s with poly := mem, statusZ := z, err := 0, statusIll := false } ∧
    (z = true ↔ ∀ i < 6, coefAt mem s.cfg.maxPoly 0 i = 0) ∧
    PolyFrame s.poly mem s.cfg.maxPoly [0] ∧
    (∀ i < 6, coefAt mem s.cfg.maxPoly 0 i =
      gfSum 15 (fun j => if s.fmt.getLsbD j then gfExp .gf16 (((i + 1) * j) % 15) else 0)) ∧
    ∀ i < s.cfg.maxPoly, 6 ≤ i → coefAt mem s.cfg.maxPoly 0 i = 0

/-- R104 with R105 and R153: a clean word is accepted with nothing but S written; else the located bits are flipped, and
the word is accepted if its syndromes are zero, or FormatEcc raised with `FMT` the unmasked word. -/
def Obligations.FcorrCorrectsOrRaises : Prop :=
  Decodes (word 0x12 0 0 0 0 0) .fcorr ∧
  ∀ s : State, 6 ≤ s.cfg.maxPoly →
    (formatClean (s.fmtraw ^^^ 0x5412#15) = true → ∃ mem : Memory,
      exec .fcorr s = .next { s with
        fmt := s.fmtraw ^^^ 0x5412#15
        ecclvl := (s.fmtraw ^^^ 0x5412#15).extractLsb' 13 2
        mask := (s.fmtraw ^^^ 0x5412#15).extractLsb' 10 3
        poly := mem
        statusZ := true
        err := 0
        statusIll := false } ∧
      PolyFrame s.poly mem s.cfg.maxPoly [0] ∧ ∀ i < s.cfg.maxPoly, coefAt mem s.cfg.maxPoly 0 i = 0) ∧
    (formatClean (s.fmtraw ^^^ 0x5412#15) = false → ∃ (mem : Memory) (sigma : List Byte) (v : BitVec 15),
      sigma = bm .gf16 s.cfg.maxPoly (formatSyndromes s.cfg.maxPoly (s.fmtraw ^^^ 0x5412#15)) 6 ∧
      (∀ i < 15, v.getLsbD i = ((s.fmtraw ^^^ 0x5412#15).getLsbD i ^^
        decide (peval .gf16 s.cfg.maxPoly sigma (gfExp .gf16 ((15 - i) % 15)) = 0))) ∧
      PolyFrame s.poly mem s.cfg.maxPoly [0, 1] ∧
      (∀ i < s.cfg.maxPoly, coefAt mem s.cfg.maxPoly 1 i = coeff sigma i) ∧
      (∀ i < s.cfg.maxPoly, coefAt mem s.cfg.maxPoly 0 i = coeff (formatSyndromes s.cfg.maxPoly v) i) ∧
      (formatClean v = true → exec .fcorr s = .next { s with
        fmt := v
        ecclvl := v.extractLsb' 13 2
        mask := v.extractLsb' 10 3
        poly := mem
        statusZ := false
        err := 0
        statusIll := false }) ∧
      (formatClean v = false → exec .fcorr s = .next { s with
        fmt := s.fmtraw ^^^ 0x5412#15
        poly := mem
        statusZ := false
        err := 3
        statusErrs := true
        statusIll := false }))

/-- R106: up to three flipped bits are always recovered; whatever the word, the result is FormatEcc or a word with six zero
syndromes. -/
def Obligations.FcorrRecoversUpToThreeBitErrors : Prop :=
  (∀ (s : State) (w e : BitVec 15), s.cfg.wf → formatClean w = true →
    (List.range 15).countP (fun i => e.getLsbD i) ≤ 3 → s.fmtraw = w ^^^ e ^^^ 0x5412#15 →
    ∃ t, exec .fcorr s = .next t ∧ t.err = 0 ∧ t.fmt = w) ∧
  ∀ s : State, ∃ t, exec .fcorr s = .next t ∧ (t.err = 3 ∨ (t.err = 0 ∧ formatClean t.fmt = true))

/-! ### Codeword blocks -/

/-- R108 with R107. -/
def Obligations.BsynWritesBlockSyndromes : Prop :=
  ∀ bs npar : Byte,
    Decodes (word 0x13 0 0 0 bs.toNat npar.toNat) (.bsyn bs npar) ∧
    ∀ s : State,
      (bs.toNat = 0 ∨ s.cfg.maxPoly < npar.toNat →
        exec (.bsyn bs npar) s = .next { s with statusIll := true, statusErrs := true }) ∧
      (1 ≤ bs.toNat → npar.toNat ≤ s.cfg.maxPoly → ∃ (mem : Memory) (z : Bool),
        exec (.bsyn bs npar) s = .next { s with poly := mem, statusZ := z, err := 0, statusIll := false } ∧
        (z = true ↔ ∀ i < npar.toNat, coefAt mem s.cfg.maxPoly 0 i = 0) ∧
        PolyFrame s.poly mem s.cfg.maxPoly [0] ∧
        (∀ i < npar.toNat, coefAt mem s.cfg.maxPoly 0 i =
          gfSum bs.toNat (fun j => gfMul .gf256 (s.cw.read (bs.toNat - 1 - j)) (gfExp .gf256 ((i * j) % 255)))) ∧
        ∀ i < s.cfg.maxPoly, npar.toNat ≤ i → coefAt mem s.cfg.maxPoly 0 i = 0)

/-- R111 with R110, its two loops taken literally, and R109. -/
def Obligations.EevpWritesEvaluatorAndDerivative : Prop :=
  ∀ npar : Byte,
    Decodes (word 0x14 0 0 0 npar.toNat 0) (.eevp npar) ∧
    ∀ s : State,
      (npar.toNat = 0 ∨ s.cfg.maxPoly < npar.toNat →
        exec (.eevp npar) s = .next { s with statusIll := true, statusErrs := true }) ∧
      (1 ≤ npar.toNat → npar.toNat ≤ s.cfg.maxPoly → ∃ mem : Memory,
        exec (.eevp npar) s = .next { s with poly := mem, err := 0, statusIll := false } ∧
        PolyFrame s.poly mem s.cfg.maxPoly [2, 3] ∧
        (∀ k < s.cfg.maxPoly, coefAt mem s.cfg.maxPoly 2 k =
          eevpLoops (coefAt s.poly s.cfg.maxPoly 1) (coefAt s.poly s.cfg.maxPoly 0) npar.toNat k) ∧
        ∀ k < s.cfg.maxPoly, coefAt mem s.cfg.maxPoly 3 k =
          if k % 2 = 0 ∧ k + 1 ≤ s.cfg.maxPoly - 1 then coefAt s.poly s.cfg.maxPoly 1 (k + 1) else 0)

/-- R112 with R154, for every legal operand pair. -/
def Obligations.BcorrCorrectsOrRaises : Prop :=
  ∀ bs dw : Byte,
    Decodes (word 0x15 0 0 0 bs.toNat dw.toNat) (.bcorr bs dw) ∧
    ∀ s : State,
      (bs.toNat = 0 ∨ bs.toNat ≤ dw.toNat ∨ s.cfg.maxPoly < bs.toNat - dw.toNat →
        exec (.bcorr bs dw) s = .next { s with statusIll := true, statusErrs := true }) ∧
      (dw.toNat < bs.toNat → bs.toNat - dw.toNat ≤ s.cfg.maxPoly →
        (blockClean s.cw bs.toNat (bs.toNat - dw.toNat) = true → ∃ mem : Memory,
          exec (.bcorr bs dw) s = .next { s with poly := mem, statusZ := true, err := 0, statusIll := false } ∧
          PolyFrame s.poly mem s.cfg.maxPoly [0] ∧ ∀ i < s.cfg.maxPoly, coefAt mem s.cfg.maxPoly 0 i = 0) ∧
        (blockClean s.cw bs.toNat (bs.toNat - dw.toNat) = false →
          ∃ (mem cw : Memory) (syn sigma omega dsigma : List Byte),
            syn = blockSyndromes s.cfg.maxPoly s.cw bs.toNat (bs.toNat - dw.toNat) ∧
            sigma = bm .gf256 s.cfg.maxPoly syn (bs.toNat - dw.toNat) ∧
            omega = eevp s.cfg.maxPoly sigma syn (bs.toNat - dw.toNat) ∧
            dsigma = deriv s.cfg.maxPoly sigma ∧
            (∀ i < bs.toNat, cw.read (bs.toNat - 1 - i) = s.cw.read (bs.toNat - 1 - i) ^^^
              if peval .gf256 s.cfg.maxPoly sigma (gfExp .gf256 ((255 - i) % 255)) = 0 ∧
                  peval .gf256 s.cfg.maxPoly dsigma (gfExp .gf256 ((255 - i) % 255)) ≠ 0 then
                gfDiv .gf256 (peval .gf256 s.cfg.maxPoly omega (gfExp .gf256 ((255 - i) % 255)))
                  (peval .gf256 s.cfg.maxPoly dsigma (gfExp .gf256 ((255 - i) % 255)))
              else 0) ∧
            (∀ a, bs.toNat ≤ a → cw.read a = s.cw.read a) ∧
            PolyFrame s.poly mem s.cfg.maxPoly [0, 1, 2, 3] ∧
            (∀ i < s.cfg.maxPoly,
              coefAt mem s.cfg.maxPoly 0 i =
                coeff (blockSyndromes s.cfg.maxPoly cw bs.toNat (bs.toNat - dw.toNat)) i ∧
              coefAt mem s.cfg.maxPoly 1 i = coeff sigma i ∧
              coefAt mem s.cfg.maxPoly 2 i = coeff omega i ∧
              coefAt mem s.cfg.maxPoly 3 i = coeff dsigma i) ∧
            (blockClean cw bs.toNat (bs.toNat - dw.toNat) = true →
              exec (.bcorr bs dw) s = .next { s with
                poly := mem, cw := cw, statusZ := false, err := 0, statusIll := false }) ∧
            (blockClean cw bs.toNat (bs.toNat - dw.toNat) = false →
              exec (.bcorr bs dw) s = .next { s with
                poly := mem, cw := cw, statusZ := false, err := 4, statusErrs := true, statusIll := false })))

/-- R113 (a) and (d): a clean block is left as it is, and after a BCORR that ends with ERR = 0 the block is clean. -/
def Obligations.BcorrLeavesACleanBlock : Prop :=
  ∀ (bs dw : Byte) (s : State), dw.toNat < bs.toNat → bs.toNat - dw.toNat ≤ s.cfg.maxPoly →
    ∃ t, exec (.bcorr bs dw) s = .next t ∧
      (blockClean s.cw bs.toNat (bs.toNat - dw.toNat) = true →
        t.err = 0 ∧ t.statusZ = true ∧ t.cw = s.cw ∧
        ∀ n, 1 ≤ n → n ≤ 3 → ∀ i < s.cfg.maxPoly, t.polyByte n i = s.polyByte n i) ∧
      (t.err = 0 → blockClean t.cw bs.toNat (bs.toNat - dw.toNat) = true) ∧ (t.err = 0 ∨ t.err = 4)

/-- R113 (b), for one wrong byte: with at least two parity bytes, whatever the byte and its place, the block is restored. -/
def Obligations.BcorrRestoresOneWrongByte : Prop :=
  ∀ (bs dw : Byte) (s : State) (sent : Memory) (j : Nat) (e : Byte), s.cfg.wf →
    dw.toNat + 2 ≤ bs.toNat → bs.toNat - dw.toNat ≤ s.cfg.maxPoly → j < bs.toNat →
    blockClean sent bs.toNat (bs.toNat - dw.toNat) = true →
    (∀ a, s.cw.read a = if a = j then sent.read a ^^^ e else sent.read a) →
    ∃ t, exec (.bcorr bs dw) s = .next t ∧ t.err = 0 ∧ ∀ a, t.cw.read a = sent.read a

/-- R113 (b): a block that differs from a clean one in at most half as many bytes as it has parity is restored to it. -/
def Obligations.BcorrRestoresUpToCapacity : Prop :=
  ∀ (bs dw : Byte) (s : State) (sent : Memory), s.cfg.wf →
    dw.toNat < bs.toNat → bs.toNat - dw.toNat ≤ s.cfg.maxPoly →
    blockClean sent bs.toNat (bs.toNat - dw.toNat) = true →
    2 * (List.range bs.toNat).countP (fun a => s.cw.read a != sent.read a) ≤ bs.toNat - dw.toNat →
    ∃ t, exec (.bcorr bs dw) s = .next t ∧ t.err = 0 ∧ ∀ a < bs.toNat, t.cw.read a = sent.read a

/-! ### VERS and TAKE -/

/-- R120 with R151: every size is one of the three cases. -/
def Obligations.VersSetsVersionOrRaises : Prop :=
  ∀ size : Byte,
    Decodes (word 0x20 0 0 0 size.toNat 0) (.vers size) ∧
    ∀ s : State,
      (size.toNat % 4 ≠ 1 → exec (.vers size) s =
        .next { s with version := 0, err := 1, statusErrs := true, statusIll := false }) ∧
      (size.toNat % 4 = 1 → size.toNat < 21 ∨ 177 < size.toNat → exec (.vers size) s =
        .next { s with version := 0, err := 2, statusErrs := true, statusIll := false }) ∧
      ∀ v, 1 ≤ v → v ≤ 40 → size.toNat = 4 * v + 17 → exec (.vers size) s =
        .next { s with version := BitVec.ofNat 6 v, err := 0, statusIll := false }

/-- R42: what a field read of the bit source is, as the sum of its bits. -/
def Obligations.StreamFieldsAreMsbFirst : Prop :=
  ∀ (s : State) (k n : Nat), s.streamBits k n = bits s k n ∧ s.streamBits k n < 2 ^ n

/-- R123. -/
def Obligations.TakeReadsTheNextBits : Prop :=
  ∀ n : Byte,
    Decodes (word 0x21 0 0 0 n.toNat 0) (.take n) ∧
    ∀ s : State,
      (32 < n.toNat ∨ 8 * s.cfg.dataCap < s.databits.toNat →
        exec (.take n) s = .next { s with statusIll := true, statusErrs := true }) ∧
      (n.toNat ≤ 32 → s.databits.toNat ≤ 8 * s.cfg.dataCap → n.toNat ≤ left s →
        exec (.take n) s = .next { s with
          res := BitVec.ofNat 32 (bits s s.bitptr.toNat n.toNat)
          bitptr := s.bitptr + BitVec.ofNat 32 n.toNat
          err := 0
          statusIll := false }) ∧
      (n.toNat ≤ 32 → s.databits.toNat ≤ 8 * s.cfg.dataCap → left s < n.toNat →
        exec (.take n) s = .next { s with err := 6, statusErrs := true, statusIll := false })

/-! ### PAYLOAD -/

/-- R125, R126, R152 (b): PAYLOAD is the dispatch loop from a fresh record, run to one of its three ends whatever the
stream; the model's bound on the turns (log entry 10) plays no part. -/
def Obligations.PayloadRunsTheStreamToItsEnd : Prop :=
  Decodes (word 0x22 0 0 0 0 0) .payload ∧
  ∀ s : State,
    (8 * s.cfg.dataCap < s.databits.toNat →
      exec .payload s = .next { s with statusIll := true, statusErrs := true }) ∧
    (s.databits.toNat ≤ 8 * s.cfg.dataCap → s.version = 0 → 0 < s.cfg.payloadCap → ∃ mem : Memory,
      exec .payload s = .next { s with
        bitptr := 0, plen := 0, dtype := 0, eci := 0, payload := mem
        err := 2, statusErrs := true, statusIll := false } ∧
      mem.read 0 = 0 ∧ ∀ a, 0 < a → mem.read a = s.payload.read a) ∧
    (s.databits.toNat ≤ 8 * s.cfg.dataCap → s.version ≠ 0 → ∃ t,
      exec .payload s = .next t ∧
      StreamRun { s with bitptr := 0, plen := 0, dtype := 0, eci := 0, statusIll := false } t)

/-- R135, R20, R29, R161, R180: however PAYLOAD ends, the payload is nul-terminated inside its buffer, the bytes above it
are as before, the pointer stays in the stream, and the error is one PAYLOAD can raise. -/
def Obligations.PayloadAlwaysNulTerminates : Prop :=
  ∀ s : State, s.cfg.wf → s.databits.toNat ≤ 8 * s.cfg.dataCap → ∃ t,
    exec .payload s = .next t ∧
    t = { s with
      bitptr := t.bitptr, plen := t.plen, dtype := t.dtype, eci := t.eci, payload := t.payload
      err := t.err, statusErrs := t.statusErrs, statusIll := false } ∧
    t.plen.toNat ≤ s.cfg.payloadCap - 1 ∧ t.payload.read t.plen.toNat = 0 ∧
    (∀ a, t.plen.toNat < a → t.payload.read a = s.payload.read a) ∧
    t.bitptr.toNat ≤ s.databits.toNat ∧
    (t.dtype = 0 ∨ t.dtype = 1 ∨ t.dtype = 2 ∨ t.dtype = 4 ∨ t.dtype = 8) ∧
    (t.err = 0 ∨ t.err = 2 ∨ t.err = 5 ∨ t.err = 6) ∧
    (t.err = 0 → t.statusErrs = s.statusErrs) ∧ (t.err ≠ 0 → t.statusErrs = true)

/-- The result of PAYLOAD depends on the parameters, `VERSION`, `DATABITS` and `DATA` only: whatever else two engines
hold, they report the same record (10_state.md R10, "pure function"; 42_bitstream.md R125). -/
def Obligations.PayloadIsAPureFunctionOfItsInputs : Prop :=
  ∀ s s' : State, s.cfg = s'.cfg → s.version = s'.version → s.databits = s'.databits → s.data = s'.data →
    s.cfg.wf → s.databits.toNat ≤ 8 * s.cfg.dataCap →
    ∃ t t', exec .payload s = .next t ∧ exec .payload s' = .next t' ∧
      t.err = t'.err ∧ t.bitptr = t'.bitptr ∧ t.plen = t'.plen ∧ t.dtype = t'.dtype ∧ t.eci = t'.eci ∧
      ∀ a ≤ t.plen.toNat, t.payload.read a = t'.payload.read a

/-! ### Segments (the model's reading of PAYLOAD's loop, log entry 5) -/

/-- The arm of `exec` for the segment a mode indicator decodes to is one turn of PAYLOAD's loop (log entry 5). -/
def Obligations.IndicatorsDecodeToTheirTurn : Prop :=
  ∀ (m : BitVec 4) (s : State),
    decode (.seg4 m) = .ok (if m = 1 then .segNum else if m = 2 then .segAlnum else if m = 4 then .segByte
      else if m = 8 then .segKanji else if m = 7 then .segEci else .segEnd m) ∧
    exec (decodeSegment m) s = .next (turn m s).settle

/-- R128 and R127: a numeric segment that fits emits its digits group by group and moves the pointer over exactly its
fields. -/
def Obligations.SegNumEmitsDigits : Prop :=
  ∀ (s : State) (w count tail : Nat),
    w = countWidth .numeric (tier s) → w ≤ left s → count = bits s s.bitptr.toNat w →
    tail = (if count % 3 = 2 then 7 else if count % 3 = 1 then 4 else 0) →
    s.plen.toNat + count ≤ s.cfg.payloadCap → s.cfg.payloadCap ≤ 32768 →
    w + 10 * (count / 3) + tail ≤ left s →
    ∃ mem : Memory,
      exec .segNum s = .next { s with
        bitptr := s.bitptr + BitVec.ofNat 32 (w + 10 * (count / 3) + tail)
        plen := s.plen + BitVec.ofNat 16 count
        dtype := typeMax s 1
        payload := mem } ∧
      Emitted s mem count (fun q =>
        let k := min 3 (count - 3 * (q / 3))
        let g := bits s (s.bitptr.toNat + w + 10 * (q / 3)) (if k = 3 then 10 else if k = 2 then 7 else 4)
        BitVec.ofNat 8 (0x30 + g / 10 ^ (k - 1 - q % 3) % 10))

/-- R129 and R127. -/
def Obligations.SegAlnumEmitsCharacters : Prop :=
  ∀ (s : State) (w count : Nat),
    w = countWidth .alphanumeric (tier s) → w ≤ left s → count = bits s s.bitptr.toNat w →
    s.plen.toNat + count ≤ s.cfg.payloadCap → s.cfg.payloadCap ≤ 32768 →
    w + 11 * (count / 2) + 6 * (count % 2) ≤ left s →
    ∃ mem : Memory,
      exec .segAlnum s = .next { s with
        bitptr := s.bitptr + BitVec.ofNat 32 (w + 11 * (count / 2) + 6 * (count % 2))
        plen := s.plen + BitVec.ofNat 16 count
        dtype := typeMax s 2
        payload := mem } ∧
      Emitted s mem count (fun q =>
        let k := min 2 (count - 2 * (q / 2))
        let g := bits s (s.bitptr.toNat + w + 11 * (q / 2)) (if k = 2 then 11 else 6)
        alphabet.getD (g / 45 ^ (k - 1 - q % 2) % 45) 0)

/-- R130 and R127. -/
def Obligations.SegByteCopiesBytes : Prop :=
  ∀ (s : State) (w count : Nat),
    w = countWidth .byte (tier s) → w ≤ left s → count = bits s s.bitptr.toNat w →
    s.plen.toNat + count ≤ s.cfg.payloadCap → s.cfg.payloadCap ≤ 32768 →
    w + 8 * count ≤ left s →
    ∃ mem : Memory,
      exec .segByte s = .next { s with
        bitptr := s.bitptr + BitVec.ofNat 32 (w + 8 * count)
        plen := s.plen + BitVec.ofNat 16 count
        dtype := typeMax s 4
        payload := mem } ∧
      Emitted s mem count (fun q => BitVec.ofNat 8 (bits s (s.bitptr.toNat + w + 8 * q) 8))

/-- R131 and R127. -/
def Obligations.SegKanjiEmitsShiftJis : Prop :=
  ∀ (s : State) (w count : Nat),
    w = countWidth .kanji (tier s) → w ≤ left s → count = bits s s.bitptr.toNat w →
    s.plen.toNat + 2 * count ≤ s.cfg.payloadCap → s.cfg.payloadCap ≤ 32768 →
    w + 13 * count ≤ left s →
    ∃ mem : Memory,
      exec .segKanji s = .next { s with
        bitptr := s.bitptr + BitVec.ofNat 32 (w + 13 * count)
        plen := s.plen + BitVec.ofNat 16 (2 * count)
        dtype := typeMax s 8
        payload := mem } ∧
      Emitted s mem (2 * count) (fun q =>
        let d := bits s (s.bitptr.toNat + w + 13 * (q / 2)) 13
        BitVec.ofNat 8 (if q % 2 = 0 then shiftJis d / 256 else shiftJis d % 256))

/-- R132: the three lengths of a designator, and the two ways it can be cut short (R156), with R135's nul also when the
buffer is exactly full. -/
def Obligations.SegEciStoresDesignator : Prop :=
  ∀ (s : State) (e : Nat), e = bits s s.bitptr.toNat 8 →
    (16 ≤ left s → e / 64 = 2 → exec .segEci s = .next { s with
      bitptr := s.bitptr + 16, eci := BitVec.ofNat 24 (bits s s.bitptr.toNat 16) }) ∧
    (24 ≤ left s → e / 32 = 6 → exec .segEci s = .next { s with
      bitptr := s.bitptr + 24, eci := BitVec.ofNat 24 (bits s s.bitptr.toNat 24) }) ∧
    (8 ≤ left s → e / 64 ≠ 2 → e / 32 ≠ 6 → exec .segEci s = .next { s with
      bitptr := s.bitptr + 8, eci := BitVec.ofNat 24 e }) ∧
    (0 < s.cfg.payloadCap → s.plen.toNat ≤ s.cfg.payloadCap →
      (left s < 8 → ∃ mem : Memory, exec .segEci s = .next { s with
          plen := BitVec.ofNat 16 (nulAt s), payload := mem, err := 6, statusErrs := true, statusIll := false } ∧
        NulPlaced s mem) ∧
      (8 ≤ left s → (e / 64 = 2 ∧ left s < 16) ∨ (e / 32 = 6 ∧ left s < 24) →
        ∃ mem : Memory, exec .segEci s = .next { s with
            bitptr := s.bitptr + 8, plen := BitVec.ofNat 16 (nulAt s), payload := mem
            err := 6, statusErrs := true, statusIll := false } ∧
          NulPlaced s mem))

/-- R133 (a) and R135: the end of the message succeeds and places the nul; an exactly full buffer gives up its last byte. -/
def Obligations.SegEndTerminatesThePayload : Prop :=
  ∀ (m : BitVec 4) (s : State), 2 ≤ s.cfg.payloadCap → s.cfg.payloadCap ≤ 32768 →
    (s.plen.toNat < s.cfg.payloadCap → ∃ mem : Memory,
      exec (.segEnd m) s = .next { s with payload := mem, err := 0, statusIll := false } ∧
      ∀ a, mem.read a = if a = s.plen.toNat then 0 else s.payload.read a) ∧
    (s.plen.toNat = s.cfg.payloadCap → ∃ mem : Memory,
      exec (.segEnd m) s = .next { s with
        plen := BitVec.ofNat 16 (s.cfg.payloadCap - 1), payload := mem, err := 0, statusIll := false } ∧
      ∀ a, mem.read a = if a = s.cfg.payloadCap - 1 then 0 else s.payload.read a)

/-- R134, R155, R156, R135: in each data mode a count field that does not fit is an underflow that consumes nothing, and
a declared length beyond the buffer is an overflow just after the count field, whatever bits follow; the nul is placed, also
when an earlier segment filled the buffer exactly. -/
def Obligations.CountFieldErrorsComeBeforeData : Prop :=
  ∀ (m : DataMode) (s : State), 0 < s.cfg.payloadCap → s.plen.toNat ≤ s.cfg.payloadCap →
    (left s < countWidth m (tier s) → ∃ mem : Memory,
      exec (modeInstr m) s = .next { s with
        plen := BitVec.ofNat 16 (nulAt s), payload := mem, err := 6, statusErrs := true, statusIll := false } ∧
      NulPlaced s mem) ∧
    (countWidth m (tier s) ≤ left s →
      s.cfg.payloadCap < s.plen.toNat + declared m (bits s s.bitptr.toNat (countWidth m (tier s))) →
      ∃ mem : Memory,
        exec (modeInstr m) s = .next { s with
          bitptr := s.bitptr + BitVec.ofNat 32 (countWidth m (tier s))
          plen := BitVec.ofNat 16 (nulAt s), payload := mem
          err := 5, statusErrs := true, statusIll := false } ∧
        NulPlaced s mem)

/-- R128, R135, R156: a numeric segment cut short keeps and counts the digits of its n whole groups, all of them groups of
three, and leaves the pointer at the first bit of the group that did not fit, full or remainder. -/
def Obligations.SegNumUnderflowKeepsWholeGroups : Prop :=
  ∀ (s : State) (w count tail n : Nat),
    w = countWidth .numeric (tier s) → w ≤ left s → count = bits s s.bitptr.toNat w →
    tail = (if count % 3 = 2 then 7 else if count % 3 = 1 then 4 else 0) →
    s.plen.toNat + count ≤ s.cfg.payloadCap → s.cfg.payloadCap ≤ 32768 →
    left s < w + 10 * (count / 3) + tail → n = min (count / 3) ((left s - w) / 10) →
    ∃ mem : Memory,
      exec .segNum s = .next { s with
        bitptr := s.bitptr + BitVec.ofNat 32 (w + 10 * n)
        plen := s.plen + BitVec.ofNat 16 (3 * n)
        payload := mem, err := 6, statusErrs := true, statusIll := false } ∧
      Emitted s mem (3 * n + 1) (fun q =>
        if q < 3 * n then
          BitVec.ofNat 8 (0x30 + bits s (s.bitptr.toNat + w + 10 * (q / 3)) 10 / 10 ^ (2 - q % 3) % 10)
        else 0)

/-- R129, R135, R156: an alphanumeric segment cut short keeps and counts the characters of its n whole pairs, and leaves
the pointer at the first bit of the pair or single that did not fit. -/
def Obligations.SegAlnumUnderflowKeepsWholePairs : Prop :=
  ∀ (s : State) (w count n : Nat),
    w = countWidth .alphanumeric (tier s) → w ≤ left s → count = bits s s.bitptr.toNat w →
    s.plen.toNat + count ≤ s.cfg.payloadCap → s.cfg.payloadCap ≤ 32768 →
    left s < w + 11 * (count / 2) + 6 * (count % 2) → n = min (count / 2) ((left s - w) / 11) →
    ∃ mem : Memory,
      exec .segAlnum s = .next { s with
        bitptr := s.bitptr + BitVec.ofNat 32 (w + 11 * n)
        plen := s.plen + BitVec.ofNat 16 (2 * n)
        payload := mem, err := 6, statusErrs := true, statusIll := false } ∧
      Emitted s mem (2 * n + 1) (fun q =>
        if q < 2 * n then
          alphabet.getD (bits s (s.bitptr.toNat + w + 11 * (q / 2)) 11 / 45 ^ (1 - q % 2) % 45) 0
        else 0)

/-- R131, R135, R156: a Kanji segment cut short keeps and counts the two bytes of each of its n whole codes, and leaves the
pointer at the first bit of the code that did not fit. -/
def Obligations.SegKanjiUnderflowKeepsWholeCodes : Prop :=
  ∀ (s : State) (w count n : Nat),
    w = countWidth .kanji (tier s) → w ≤ left s → count = bits s s.bitptr.toNat w →
    s.plen.toNat + 2 * count ≤ s.cfg.payloadCap → s.cfg.payloadCap ≤ 32768 →
    left s < w + 13 * count → n = (left s - w) / 13 →
    ∃ mem : Memory,
      exec .segKanji s = .next { s with
        bitptr := s.bitptr + BitVec.ofNat 32 (w + 13 * n)
        plen := s.plen + BitVec.ofNat 16 (2 * n)
        payload := mem, err := 6, statusErrs := true, statusIll := false } ∧
      Emitted s mem (2 * n + 1) (fun q =>
        let d := bits s (s.bitptr.toNat + w + 13 * (q / 2)) 13
        if q < 2 * n then BitVec.ofNat 8 (if q % 2 = 0 then shiftJis d / 256 else shiftJis d % 256) else 0)

/-- R130, R135, R156: a byte segment cut short keeps the bytes that were whole, counts them, and leaves the pointer at the
first bit of the byte that was not. -/
def Obligations.SegByteUnderflowKeepsWholeBytes : Prop :=
  ∀ (s : State) (w count n : Nat),
    w = countWidth .byte (tier s) → w ≤ left s → count = bits s s.bitptr.toNat w →
    s.plen.toNat + count ≤ s.cfg.payloadCap → s.cfg.payloadCap ≤ 32768 →
    left s < w + 8 * count → n = (left s - w) / 8 →
    ∃ mem : Memory,
      exec .segByte s = .next { s with
        bitptr := s.bitptr + BitVec.ofNat 32 (w + 8 * n)
        plen := s.plen + BitVec.ofNat 16 n
        payload := mem, err := 6, statusErrs := true, statusIll := false } ∧
      Emitted s mem (n + 1) (fun q =>
        if q < n then BitVec.ofNat 8 (bits s (s.bitptr.toNat + w + 8 * q) 8) else 0)

/-- R77. -/
def Obligations.AlphabetIsAscii : Prop :=
  alphabet.length = 45 ∧
  (∀ i < 10, alphabet.getD i 0 = BitVec.ofNat 8 (0x30 + i)) ∧
  (∀ i < 26, alphabet.getD (10 + i) 0 = BitVec.ofNat 8 (0x41 + i)) ∧
  alphabet.drop 36 = [0x20, 0x24, 0x25, 0x2A, 0x2B, 0x2D, 0x2E, 0x2F, 0x3A]

/-! ### Encoding -/

/-- Every well-formed instruction is what its own encoding decodes to, with every operand at every value. -/
def Obligations.DecodeInvertsEncode : Prop :=
  ∀ i : Instr, i.wellFormed = true → decode (encode i) = .ok i

/-- Every bit pattern that decodes is the encoding of what it decodes to, and that is well-formed. -/
def Obligations.EncodeInvertsDecode : Prop :=
  ∀ (c : Code) (i : Instr), decode c = .ok i → encode i = c ∧ i.wellFormed = true

/-- R61: a word is legal exactly when some row of R62 matches it under its mask; at most one does, and it gives the
instruction. -/
def Obligations.DecoderIsMaskAndMatch : Prop :=
  (∀ (w : Word) (i : Instr), decode (.cmd32 w) = .ok i ↔ ∃ o : Opcode, w &&& o.mask = o.pattern ∧ o.instr w = i) ∧
  ∀ (w : Word) (o o' : Opcode), w &&& o.mask = o.pattern → w &&& o'.mask = o'.pattern → o = o'

/-- The worked encodings of 30_encoding.md R63. -/
def Obligations.WorkedEncodingsDecode : Prop :=
  Decodes 0x00190001 (.gfexp .gf256 25) ∧ Decodes 0x000B0102 (.gflog .gf16 0x0B) ∧
  Decodes 0x008E1003 (.peval .gf256 1 0x8E) ∧ Decodes 0x031D5804 (.padd .gf256 4 5 0x1D 3) ∧
  Decodes 0x00060110 (.bm .gf16 6) ∧ Decodes 0x0D1A0013 (.bsyn 26 13) ∧ Decodes 0x0D1A0015 (.bcorr 26 13) ∧
  Decodes 0x00150020 (.vers 21) ∧ Decodes 0x00040021 (.take 4) ∧ Decodes 0x00000022 .payload

/-! ### Steps, illegal commands, bus -/

/-- A write of a command word to offset 0 runs the decoded instruction, on the state with that access taken and answered
(10_state.md R11; `inbox` and `response` are log entries 1 and 2). -/
def Obligations.StepRunsTheDecodedInstruction : Prop :=
  ∀ (s : State) (w : Word) (i : Instr) (rest : List HostAccess),
    decode (.cmd32 w) = .ok i → s.inbox = .write 0x0000 .w32 w :: rest →
    step s = exec i { s with inbox := rest, response := some .done }

/-- R158: a word that decodes to nothing, or whose operands the table calls illegal, sets ILL and ERRS and nothing else;
every other command clears ILL. -/
def Obligations.IllegalCommandsOnlySetFlags : Prop :=
  (∀ (w : Word) (s : State), (∀ i, decode (.cmd32 w) ≠ .ok i) →
    runWord w s = .next { s with statusIll := true, statusErrs := true }) ∧
  (∀ (i : Instr) (s : State), illegalOperands s i →
    exec i s = .next { s with statusIll := true, statusErrs := true }) ∧
  ∀ (i : Instr) (s : State), isCommand i = true → ¬ illegalOperands s i →
    ∃ t, exec i s = .next t ∧ t.statusIll = false

/-- R150 and R160: what raising each kind does. -/
def Obligations.RaiseWritesCodeAndFlags : Prop :=
  ∀ (s : State) (k : ErrKind) (code : BitVec 3),
    (k, code) ∈ [(ErrKind.invalidGridSize, 1), (.invalidVersion, 2), (.formatEcc, 3), (.blockEcc, 4),
      (.dataOverflow, 5), (.dataUnderflow, 6), (.unknownDataType, 7)] →
    s.raise k = { s with err := code, statusErrs := true, statusIll := false }

/-- 20_memory.md R44 and 60_exceptions.md R159: which accesses are legal, and that any other has no effect but an error
response (`inbox` and `response` are log entries 1 and 2). -/
def Obligations.OnlyLegalAccessesReachTheEngine : Prop :=
  ∀ (s : State) (rest : List HostAccess) (off : BitVec 16) (w : AccessWidth),
    (s.inbox = .read off w :: rest →
      (LegalRead s.cfg off w → ∃ v, step s = .next { s with inbox := rest, response := some (.value v) }) ∧
      (¬ LegalRead s.cfg off w → step s = .next { s with inbox := rest, response := some .busError })) ∧
    ∀ v : Word, s.inbox = .write off w v :: rest →
      (LegalWrite s.cfg off w → ∃ t, step s = .next t ∧ t.response = some .done ∧ t.inbox = rest) ∧
      (¬ LegalWrite s.cfg off w → step s = .next { s with inbox := rest, response := some .busError })

/-- The value each register reads as (10_state.md R11 to R22, 20_memory.md R45, R46); BUSY and bits 31:4 of STATUS read 0. -/
def Obligations.HostRegisterReads : Prop :=
  ∀ (s : State) (rest : List HostAccess) (off : BitVec 16) (v : Nat),
    (off, v) ∈ ([(0x00, 0), (0x04, 2 * s.statusZ.toNat + 4 * s.statusIll.toNat + 8 * s.statusErrs.toNat),
      (0x08, s.err.toNat), (0x0C, s.res.toNat), (0x10, s.fmtraw.toNat), (0x14, s.fmt.toNat), (0x18, s.ecclvl.toNat),
      (0x1C, s.mask.toNat), (0x20, s.version.toNat), (0x24, s.databits.toNat), (0x28, s.bitptr.toNat),
      (0x2C, s.plen.toNat), (0x30, s.dtype.toNat), (0x34, s.eci.toNat)] : List (BitVec 16 × Nat)) →
    s.inbox = .read off .w32 :: rest →
    step s = .next { s with inbox := rest, response := some (.value (BitVec.ofNat 32 v)) }

/-- What a host write does to each register but CMD (10_state.md R12 to R22, 20_memory.md R45, R46). -/
def Obligations.HostRegisterWrites : Prop :=
  ∀ (s t : State) (rest : List HostAccess) (off : BitVec 16) (v : Word),
    (off, t) ∈ ([(0x04, { s with statusErrs := s.statusErrs && !v.getLsbD 3 }),
      (0x10, { s with fmtraw := BitVec.ofNat 15 v.toNat }), (0x14, { s with fmt := BitVec.ofNat 15 v.toNat }),
      (0x24, { s with databits := v }), (0x28, { s with bitptr := v }),
      (0x08, s), (0x0C, s), (0x18, s), (0x1C, s), (0x20, s), (0x2C, s), (0x30, s), (0x34, s)] :
        List (BitVec 16 × State)) →
    s.inbox = .write off .w32 v :: rest →
    step s = .next { t with inbox := rest, response := some .done }

/-- 20_memory.md R45, R49 (b): a byte the host writes is the byte it reads back, and no other offset reads differently. -/
def Obligations.HostByteReadsBackWhatWasWritten : Prop :=
  ∀ (s : State) (off : BitVec 16) (v : Word) (rest : List HostAccess), s.cfg.wf → writableByte s.cfg off.toNat →
    s.inbox = .write off .w8 v :: rest →
    ∃ t, step s = .next t ∧
      (t.hostRead off .w8).response = some (.value (BitVec.ofNat 32 (v.toNat % 256))) ∧
      (∀ off' w, ¬ (off' = off ∧ w = .w8) → (t.hostRead off' w).response = (s.hostRead off' w).response)

/-- 10_state.md R12, 60_exceptions.md R163, 70_reset_and_hazards.md R181: ERRS is set by every command that ends in error or
is illegal, and once set only a host write of a 1 in bit 3 of STATUS clears it. -/
def Obligations.ErrsIsSticky : Prop :=
  (∀ (i : Instr) (s t : State), isCommand i = true → exec i s = .next t →
    (illegalOperands s i ∨ t.err ≠ 0) → t.statusErrs = true) ∧
  ∀ s t : State, s.statusErrs = true → step s = .next t → t.statusErrs = false →
    ∃ (v : Word) (rest : List HostAccess), s.inbox = .write 0x0004 .w32 v :: rest ∧ v.getLsbD 3 = true

/-! ### Reset, invariant, whole machine -/

/-- R170, R32, of an engine with any parameters (log entry 4): after reset every register is 0, every byte of every space
reads 0, and so does every legal host read. -/
def Obligations.ResetIsAllZero : Prop :=
  ∀ s : State, s = State.reset ∨ (∃ c : Config, s = State.resetWith c) →
    (s.statusWord = 0 ∧ s.err = 0 ∧ s.res = 0 ∧ s.fmtraw = 0 ∧ s.fmt = 0 ∧ s.ecclvl = 0 ∧ s.mask = 0 ∧
      s.version = 0 ∧ s.databits = 0 ∧ s.bitptr = 0 ∧ s.plen = 0 ∧ s.dtype = 0 ∧ s.eci = 0) ∧
    (∀ n i, s.polyByte n i = 0) ∧ (∀ a, s.cw.read a = 0) ∧ (∀ a, s.data.read a = 0) ∧ (∀ a, s.payload.read a = 0) ∧
    ∀ off w, LegalRead s.cfg off w → (s.hostRead off w).response = some (.value 0)

/-- The invariant of `Sys2Proof.Safety` holds at reset, for all parameters within the bounds of R5 and R6, the defaults
among them (log entry 4). -/
def Obligations.ResetSatisfiesInvariant : Prop :=
  State.reset.Inv ∧ ∀ c : Config, c.wf → (State.resetWith c).Inv

/-- Every step keeps the invariant: canonical byte spaces inside their sizes, ERR never 7, VERSION at most 40, PLEN inside
the buffer with a nul at it, DTYPE a data type code. -/
def Obligations.StepKeepsInvariant : Prop :=
  ∀ s t : State, s.Inv → step s = .next t → t.Inv

/-- R180: what each instruction may write, everything else unchanged; `P[4]` to `P[7]` only by PADD, `DATA`, `DATABITS` and
`FMTRAW` by none; an illegal command writes `ILL` and `ERRS` only; `ERRS` is set only by a command that is illegal or ends
in error, and cleared by none; bytes of `PAYLOAD` above the new `PLEN` are left alone, and by a segment arm (log entry 5)
also those below the old one. The premises on the payload's length are weaker than the invariant: they include the buffer
that a segment has filled exactly. -/
def Obligations.InstructionsWriteOnlyTheirOutputs : Prop :=
  ∀ (i : Instr) (s t : State), exec i s = .next t →
    t.cfg = s.cfg ∧ t.fmtraw = s.fmtraw ∧ t.databits = s.databits ∧ t.data = s.data ∧ t.inbox = s.inbox ∧
    t.response = s.response ∧
    PolyFrame s.poly t.poly s.cfg.maxPoly (polyWrites i) ∧
    (∀ a, cwWrites i ≤ a → t.cw.read a = s.cw.read a) ∧
    (writesRes i = false → t.res = s.res) ∧
    (writesZ i = false → t.statusZ = s.statusZ) ∧
    (i ≠ .fcorr → t.fmt = s.fmt ∧ t.ecclvl = s.ecclvl ∧ t.mask = s.mask) ∧
    ((∀ size, i ≠ .vers size) → t.version = s.version) ∧
    (writesBitptr i = false → t.bitptr = s.bitptr) ∧
    (writesPayload i = false → t.plen = s.plen ∧ t.payload = s.payload) ∧
    (writesDtype i = false → t.dtype = s.dtype) ∧
    (writesEci i = false → t.eci = s.eci) ∧
    (illegalOperands s i → t = { s with statusIll := true, statusErrs := true }) ∧
    (¬ illegalOperands s i → t.err = 0 → t.statusErrs = s.statusErrs) ∧
    (s.statusErrs = true → t.statusErrs = true) ∧
    (s.cfg.wf → s.plen.toNat ≤ s.cfg.payloadCap →
      (∀ a, t.plen.toNat < a → t.payload.read a = s.payload.read a) ∧
      (i ≠ .payload → ∀ a < s.plen.toNat, a ≠ t.plen.toNat → t.payload.read a = s.payload.read a))

/-- Every step answers a next state: no instruction, word or access stops the machine (60_exceptions.md R160,
70_reset_and_hazards.md R183); with no access left it is idle (R172; the inbox is log entry 1). -/
def Obligations.EveryStepAnswersANextState : Prop :=
  (∀ s : State, ∃ t, step s = .next t) ∧ ∀ s : State, s.inbox = [] → step s = .next s

/-- No behaviour depends on BASE (93_implementation_defined.md U11). -/
def Obligations.BaseChangesNoBehaviour : Prop :=
  ∀ (s t : State) (b : Nat), step s = .next t →
    step { s with cfg := { s.cfg with base := b } } = .next { t with cfg := { t.cfg with base := b } }
end

