-- ==== Sys2Proof/Laws/State.lean ====
section
/-!
SUPPORT. One lemma per field per state update, all by definition; later proofs rewrite with them and unfold no update.
-/

namespace Sys2Proof.Machine

variable (s : State)

/-! ### `setPoly` -/

@[simp] theorem State.setPoly_cfg (n : Nat) (p : List Byte) : (s.setPoly n p).cfg = s.cfg := rfl
@[simp] theorem State.setPoly_statusZ (n : Nat) (p : List Byte) : (s.setPoly n p).statusZ = s.statusZ := rfl
@[simp] theorem State.setPoly_statusIll (n : Nat) (p : List Byte) : (s.setPoly n p).statusIll = s.statusIll := rfl
@[simp] theorem State.setPoly_statusErrs (n : Nat) (p : List Byte) : (s.setPoly n p).statusErrs = s.statusErrs := rfl
@[simp] theorem State.setPoly_err (n : Nat) (p : List Byte) : (s.setPoly n p).err = s.err := rfl
@[simp] theorem State.setPoly_res (n : Nat) (p : List Byte) : (s.setPoly n p).res = s.res := rfl
@[simp] theorem State.setPoly_fmtraw (n : Nat) (p : List Byte) : (s.setPoly n p).fmtraw = s.fmtraw := rfl
@[simp] theorem State.setPoly_fmt (n : Nat) (p : List Byte) : (s.setPoly n p).fmt = s.fmt := rfl
@[simp] theorem State.setPoly_ecclvl (n : Nat) (p : List Byte) : (s.setPoly n p).ecclvl = s.ecclvl := rfl
@[simp] theorem State.setPoly_mask (n : Nat) (p : List Byte) : (s.setPoly n p).mask = s.mask := rfl
@[simp] theorem State.setPoly_version (n : Nat) (p : List Byte) : (s.setPoly n p).version = s.version := rfl
@[simp] theorem State.setPoly_databits (n : Nat) (p : List Byte) : (s.setPoly n p).databits = s.databits := rfl
@[simp] theorem State.setPoly_bitptr (n : Nat) (p : List Byte) : (s.setPoly n p).bitptr = s.bitptr := rfl
@[simp] theorem State.setPoly_plen (n : Nat) (p : List Byte) : (s.setPoly n p).plen = s.plen := rfl
@[simp] theorem State.setPoly_dtype (n : Nat) (p : List Byte) : (s.setPoly n p).dtype = s.dtype := rfl
@[simp] theorem State.setPoly_eci (n : Nat) (p : List Byte) : (s.setPoly n p).eci = s.eci := rfl
@[simp] theorem State.setPoly_cw (n : Nat) (p : List Byte) : (s.setPoly n p).cw = s.cw := rfl
@[simp] theorem State.setPoly_data (n : Nat) (p : List Byte) : (s.setPoly n p).data = s.data := rfl
@[simp] theorem State.setPoly_payload (n : Nat) (p : List Byte) : (s.setPoly n p).payload = s.payload := rfl
@[simp] theorem State.setPoly_inbox (n : Nat) (p : List Byte) : (s.setPoly n p).inbox = s.inbox := rfl
@[simp] theorem State.setPoly_response (n : Nat) (p : List Byte) : (s.setPoly n p).response = s.response := rfl

/-! ### `succeed` -/

@[simp] theorem State.succeed_cfg : (s.succeed).cfg = s.cfg := rfl
@[simp] theorem State.succeed_statusZ : (s.succeed).statusZ = s.statusZ := rfl
@[simp] theorem State.succeed_statusIll : (s.succeed).statusIll = false := rfl
@[simp] theorem State.succeed_statusErrs : (s.succeed).statusErrs = s.statusErrs := rfl
@[simp] theorem State.succeed_err : (s.succeed).err = 0 := rfl
@[simp] theorem State.succeed_res : (s.succeed).res = s.res := rfl
@[simp] theorem State.succeed_fmtraw : (s.succeed).fmtraw = s.fmtraw := rfl
@[simp] theorem State.succeed_fmt : (s.succeed).fmt = s.fmt := rfl
@[simp] theorem State.succeed_ecclvl : (s.succeed).ecclvl = s.ecclvl := rfl
@[simp] theorem State.succeed_mask : (s.succeed).mask = s.mask := rfl
@[simp] theorem State.succeed_version : (s.succeed).version = s.version := rfl
@[simp] theorem State.succeed_databits : (s.succeed).databits = s.databits := rfl
@[simp] theorem State.succeed_bitptr : (s.succeed).bitptr = s.bitptr := rfl
@[simp] theorem State.succeed_plen : (s.succeed).plen = s.plen := rfl
@[simp] theorem State.succeed_dtype : (s.succeed).dtype = s.dtype := rfl
@[simp] theorem State.succeed_eci : (s.succeed).eci = s.eci := rfl
@[simp] theorem State.succeed_poly : (s.succeed).poly = s.poly := rfl
@[simp] theorem State.succeed_cw : (s.succeed).cw = s.cw := rfl
@[simp] theorem State.succeed_data : (s.succeed).data = s.data := rfl
@[simp] theorem State.succeed_payload : (s.succeed).payload = s.payload := rfl
@[simp] theorem State.succeed_inbox : (s.succeed).inbox = s.inbox := rfl
@[simp] theorem State.succeed_response : (s.succeed).response = s.response := rfl

/-! ### `raise` -/

@[simp] theorem State.raise_cfg (k : ErrKind) : (s.raise k).cfg = s.cfg := rfl
@[simp] theorem State.raise_statusZ (k : ErrKind) : (s.raise k).statusZ = s.statusZ := rfl
@[simp] theorem State.raise_statusIll (k : ErrKind) : (s.raise k).statusIll = false := rfl
@[simp] theorem State.raise_statusErrs (k : ErrKind) : (s.raise k).statusErrs = true := rfl
@[simp] theorem State.raise_err (k : ErrKind) : (s.raise k).err = k.code := rfl
@[simp] theorem State.raise_res (k : ErrKind) : (s.raise k).res = s.res := rfl
@[simp] theorem State.raise_fmtraw (k : ErrKind) : (s.raise k).fmtraw = s.fmtraw := rfl
@[simp] theorem State.raise_fmt (k : ErrKind) : (s.raise k).fmt = s.fmt := rfl
@[simp] theorem State.raise_ecclvl (k : ErrKind) : (s.raise k).ecclvl = s.ecclvl := rfl
@[simp] theorem State.raise_mask (k : ErrKind) : (s.raise k).mask = s.mask := rfl
@[simp] theorem State.raise_version (k : ErrKind) : (s.raise k).version = s.version := rfl
@[simp] theorem State.raise_databits (k : ErrKind) : (s.raise k).databits = s.databits := rfl
@[simp] theorem State.raise_bitptr (k : ErrKind) : (s.raise k).bitptr = s.bitptr := rfl
@[simp] theorem State.raise_plen (k : ErrKind) : (s.raise k).plen = s.plen := rfl
@[simp] theorem State.raise_dtype (k : ErrKind) : (s.raise k).dtype = s.dtype := rfl
@[simp] theorem State.raise_eci (k : ErrKind) : (s.raise k).eci = s.eci := rfl
@[simp] theorem State.raise_poly (k : ErrKind) : (s.raise k).poly = s.poly := rfl
@[simp] theorem State.raise_cw (k : ErrKind) : (s.raise k).cw = s.cw := rfl
@[simp] theorem State.raise_data (k : ErrKind) : (s.raise k).data = s.data := rfl
@[simp] theorem State.raise_payload (k : ErrKind) : (s.raise k).payload = s.payload := rfl
@[simp] theorem State.raise_inbox (k : ErrKind) : (s.raise k).inbox = s.inbox := rfl
@[simp] theorem State.raise_response (k : ErrKind) : (s.raise k).response = s.response := rfl

/-! ### `illegal` -/

@[simp] theorem State.illegal_cfg : (s.illegal).cfg = s.cfg := rfl
@[simp] theorem State.illegal_statusZ : (s.illegal).statusZ = s.statusZ := rfl
@[simp] theorem State.illegal_statusIll : (s.illegal).statusIll = true := rfl
@[simp] theorem State.illegal_statusErrs : (s.illegal).statusErrs = true := rfl
@[simp] theorem State.illegal_err : (s.illegal).err = s.err := rfl
@[simp] theorem State.illegal_res : (s.illegal).res = s.res := rfl
@[simp] theorem State.illegal_fmtraw : (s.illegal).fmtraw = s.fmtraw := rfl
@[simp] theorem State.illegal_fmt : (s.illegal).fmt = s.fmt := rfl
@[simp] theorem State.illegal_ecclvl : (s.illegal).ecclvl = s.ecclvl := rfl
@[simp] theorem State.illegal_mask : (s.illegal).mask = s.mask := rfl
@[simp] theorem State.illegal_version : (s.illegal).version = s.version := rfl
@[simp] theorem State.illegal_databits : (s.illegal).databits = s.databits := rfl
@[simp] theorem State.illegal_bitptr : (s.illegal).bitptr = s.bitptr := rfl
@[simp] theorem State.illegal_plen : (s.illegal).plen = s.plen := rfl
@[simp] theorem State.illegal_dtype : (s.illegal).dtype = s.dtype := rfl
@[simp] theorem State.illegal_eci : (s.illegal).eci = s.eci := rfl
@[simp] theorem State.illegal_poly : (s.illegal).poly = s.poly := rfl
@[simp] theorem State.illegal_cw : (s.illegal).cw = s.cw := rfl
@[simp] theorem State.illegal_data : (s.illegal).data = s.data := rfl
@[simp] theorem State.illegal_payload : (s.illegal).payload = s.payload := rfl
@[simp] theorem State.illegal_inbox : (s.illegal).inbox = s.inbox := rfl
@[simp] theorem State.illegal_response : (s.illegal).response = s.response := rfl

/-! ### `emit` -/

@[simp] theorem State.emit_cfg (bs : List Byte) : (s.emit bs).cfg = s.cfg := rfl
@[simp] theorem State.emit_statusZ (bs : List Byte) : (s.emit bs).statusZ = s.statusZ := rfl
@[simp] theorem State.emit_statusIll (bs : List Byte) : (s.emit bs).statusIll = s.statusIll := rfl
@[simp] theorem State.emit_statusErrs (bs : List Byte) : (s.emit bs).statusErrs = s.statusErrs := rfl
@[simp] theorem State.emit_err (bs : List Byte) : (s.emit bs).err = s.err := rfl
@[simp] theorem State.emit_res (bs : List Byte) : (s.emit bs).res = s.res := rfl
@[simp] theorem State.emit_fmtraw (bs : List Byte) : (s.emit bs).fmtraw = s.fmtraw := rfl
@[simp] theorem State.emit_fmt (bs : List Byte) : (s.emit bs).fmt = s.fmt := rfl
@[simp] theorem State.emit_ecclvl (bs : List Byte) : (s.emit bs).ecclvl = s.ecclvl := rfl
@[simp] theorem State.emit_mask (bs : List Byte) : (s.emit bs).mask = s.mask := rfl
@[simp] theorem State.emit_version (bs : List Byte) : (s.emit bs).version = s.version := rfl
@[simp] theorem State.emit_databits (bs : List Byte) : (s.emit bs).databits = s.databits := rfl
@[simp] theorem State.emit_bitptr (bs : List Byte) : (s.emit bs).bitptr = s.bitptr := rfl
@[simp] theorem State.emit_plen (bs : List Byte) : (s.emit bs).plen = s.plen + BitVec.ofNat 16 bs.length := rfl
@[simp] theorem State.emit_dtype (bs : List Byte) : (s.emit bs).dtype = s.dtype := rfl
@[simp] theorem State.emit_eci (bs : List Byte) : (s.emit bs).eci = s.eci := rfl
@[simp] theorem State.emit_poly (bs : List Byte) : (s.emit bs).poly = s.poly := rfl
@[simp] theorem State.emit_cw (bs : List Byte) : (s.emit bs).cw = s.cw := rfl
@[simp] theorem State.emit_data (bs : List Byte) : (s.emit bs).data = s.data := rfl
@[simp] theorem State.emit_payload (bs : List Byte) : (s.emit bs).payload = s.payload.writeList s.plen.toNat bs := rfl
@[simp] theorem State.emit_inbox (bs : List Byte) : (s.emit bs).inbox = s.inbox := rfl
@[simp] theorem State.emit_response (bs : List Byte) : (s.emit bs).response = s.response := rfl

/-! ### `advance` -/

@[simp] theorem State.advance_cfg (n : Nat) : (s.advance n).cfg = s.cfg := rfl
@[simp] theorem State.advance_statusZ (n : Nat) : (s.advance n).statusZ = s.statusZ := rfl
@[simp] theorem State.advance_statusIll (n : Nat) : (s.advance n).statusIll = s.statusIll := rfl
@[simp] theorem State.advance_statusErrs (n : Nat) : (s.advance n).statusErrs = s.statusErrs := rfl
@[simp] theorem State.advance_err (n : Nat) : (s.advance n).err = s.err := rfl
@[simp] theorem State.advance_res (n : Nat) : (s.advance n).res = s.res := rfl
@[simp] theorem State.advance_fmtraw (n : Nat) : (s.advance n).fmtraw = s.fmtraw := rfl
@[simp] theorem State.advance_fmt (n : Nat) : (s.advance n).fmt = s.fmt := rfl
@[simp] theorem State.advance_ecclvl (n : Nat) : (s.advance n).ecclvl = s.ecclvl := rfl
@[simp] theorem State.advance_mask (n : Nat) : (s.advance n).mask = s.mask := rfl
@[simp] theorem State.advance_version (n : Nat) : (s.advance n).version = s.version := rfl
@[simp] theorem State.advance_databits (n : Nat) : (s.advance n).databits = s.databits := rfl
@[simp] theorem State.advance_bitptr (n : Nat) : (s.advance n).bitptr = s.bitptr + BitVec.ofNat 32 n := rfl
@[simp] theorem State.advance_plen (n : Nat) : (s.advance n).plen = s.plen := rfl
@[simp] theorem State.advance_dtype (n : Nat) : (s.advance n).dtype = s.dtype := rfl
@[simp] theorem State.advance_eci (n : Nat) : (s.advance n).eci = s.eci := rfl
@[simp] theorem State.advance_poly (n : Nat) : (s.advance n).poly = s.poly := rfl
@[simp] theorem State.advance_cw (n : Nat) : (s.advance n).cw = s.cw := rfl
@[simp] theorem State.advance_data (n : Nat) : (s.advance n).data = s.data := rfl
@[simp] theorem State.advance_payload (n : Nat) : (s.advance n).payload = s.payload := rfl
@[simp] theorem State.advance_inbox (n : Nat) : (s.advance n).inbox = s.inbox := rfl
@[simp] theorem State.advance_response (n : Nat) : (s.advance n).response = s.response := rfl

/-! ### `setRes` -/

@[simp] theorem State.setRes_cfg (v : Nat) : (s.setRes v).cfg = s.cfg := rfl
@[simp] theorem State.setRes_statusZ (v : Nat) : (s.setRes v).statusZ = s.statusZ := rfl
@[simp] theorem State.setRes_statusIll (v : Nat) : (s.setRes v).statusIll = s.statusIll := rfl
@[simp] theorem State.setRes_statusErrs (v : Nat) : (s.setRes v).statusErrs = s.statusErrs := rfl
@[simp] theorem State.setRes_err (v : Nat) : (s.setRes v).err = s.err := rfl
@[simp] theorem State.setRes_res (v : Nat) : (s.setRes v).res = BitVec.ofNat 32 v := rfl
@[simp] theorem State.setRes_fmtraw (v : Nat) : (s.setRes v).fmtraw = s.fmtraw := rfl
@[simp] theorem State.setRes_fmt (v : Nat) : (s.setRes v).fmt = s.fmt := rfl
@[simp] theorem State.setRes_ecclvl (v : Nat) : (s.setRes v).ecclvl = s.ecclvl := rfl
@[simp] theorem State.setRes_mask (v : Nat) : (s.setRes v).mask = s.mask := rfl
@[simp] theorem State.setRes_version (v : Nat) : (s.setRes v).version = s.version := rfl
@[simp] theorem State.setRes_databits (v : Nat) : (s.setRes v).databits = s.databits := rfl
@[simp] theorem State.setRes_bitptr (v : Nat) : (s.setRes v).bitptr = s.bitptr := rfl
@[simp] theorem State.setRes_plen (v : Nat) : (s.setRes v).plen = s.plen := rfl
@[simp] theorem State.setRes_dtype (v : Nat) : (s.setRes v).dtype = s.dtype := rfl
@[simp] theorem State.setRes_eci (v : Nat) : (s.setRes v).eci = s.eci := rfl
@[simp] theorem State.setRes_poly (v : Nat) : (s.setRes v).poly = s.poly := rfl
@[simp] theorem State.setRes_cw (v : Nat) : (s.setRes v).cw = s.cw := rfl
@[simp] theorem State.setRes_data (v : Nat) : (s.setRes v).data = s.data := rfl
@[simp] theorem State.setRes_payload (v : Nat) : (s.setRes v).payload = s.payload := rfl
@[simp] theorem State.setRes_inbox (v : Nat) : (s.setRes v).inbox = s.inbox := rfl
@[simp] theorem State.setRes_response (v : Nat) : (s.setRes v).response = s.response := rfl

/-! ### `setZ` -/

@[simp] theorem State.setZ_cfg (z : Bool) : (s.setZ z).cfg = s.cfg := rfl
@[simp] theorem State.setZ_statusZ (z : Bool) : (s.setZ z).statusZ = z := rfl
@[simp] theorem State.setZ_statusIll (z : Bool) : (s.setZ z).statusIll = s.statusIll := rfl
@[simp] theorem State.setZ_statusErrs (z : Bool) : (s.setZ z).statusErrs = s.statusErrs := rfl
@[simp] theorem State.setZ_err (z : Bool) : (s.setZ z).err = s.err := rfl
@[simp] theorem State.setZ_res (z : Bool) : (s.setZ z).res = s.res := rfl
@[simp] theorem State.setZ_fmtraw (z : Bool) : (s.setZ z).fmtraw = s.fmtraw := rfl
@[simp] theorem State.setZ_fmt (z : Bool) : (s.setZ z).fmt = s.fmt := rfl
@[simp] theorem State.setZ_ecclvl (z : Bool) : (s.setZ z).ecclvl = s.ecclvl := rfl
@[simp] theorem State.setZ_mask (z : Bool) : (s.setZ z).mask = s.mask := rfl
@[simp] theorem State.setZ_version (z : Bool) : (s.setZ z).version = s.version := rfl
@[simp] theorem State.setZ_databits (z : Bool) : (s.setZ z).databits = s.databits := rfl
@[simp] theorem State.setZ_bitptr (z : Bool) : (s.setZ z).bitptr = s.bitptr := rfl
@[simp] theorem State.setZ_plen (z : Bool) : (s.setZ z).plen = s.plen := rfl
@[simp] theorem State.setZ_dtype (z : Bool) : (s.setZ z).dtype = s.dtype := rfl
@[simp] theorem State.setZ_eci (z : Bool) : (s.setZ z).eci = s.eci := rfl
@[simp] theorem State.setZ_poly (z : Bool) : (s.setZ z).poly = s.poly := rfl
@[simp] theorem State.setZ_cw (z : Bool) : (s.setZ z).cw = s.cw := rfl
@[simp] theorem State.setZ_data (z : Bool) : (s.setZ z).data = s.data := rfl
@[simp] theorem State.setZ_payload (z : Bool) : (s.setZ z).payload = s.payload := rfl
@[simp] theorem State.setZ_inbox (z : Bool) : (s.setZ z).inbox = s.inbox := rfl
@[simp] theorem State.setZ_response (z : Bool) : (s.setZ z).response = s.response := rfl

/-! ### `acceptFormat` -/

@[simp] theorem State.acceptFormat_cfg (v : BitVec 15) : (s.acceptFormat v).cfg = s.cfg := rfl
@[simp] theorem State.acceptFormat_statusZ (v : BitVec 15) : (s.acceptFormat v).statusZ = s.statusZ := rfl
@[simp] theorem State.acceptFormat_statusIll (v : BitVec 15) : (s.acceptFormat v).statusIll = s.statusIll := rfl
@[simp] theorem State.acceptFormat_statusErrs (v : BitVec 15) : (s.acceptFormat v).statusErrs = s.statusErrs := rfl
@[simp] theorem State.acceptFormat_err (v : BitVec 15) : (s.acceptFormat v).err = s.err := rfl
@[simp] theorem State.acceptFormat_res (v : BitVec 15) : (s.acceptFormat v).res = s.res := rfl
@[simp] theorem State.acceptFormat_fmtraw (v : BitVec 15) : (s.acceptFormat v).fmtraw = s.fmtraw := rfl
@[simp] theorem State.acceptFormat_fmt (v : BitVec 15) : (s.acceptFormat v).fmt = v := rfl
@[simp] theorem State.acceptFormat_ecclvl (v : BitVec 15) : (s.acceptFormat v).ecclvl = v.extractLsb' 13 2 := rfl
@[simp] theorem State.acceptFormat_mask (v : BitVec 15) : (s.acceptFormat v).mask = v.extractLsb' 10 3 := rfl
@[simp] theorem State.acceptFormat_version (v : BitVec 15) : (s.acceptFormat v).version = s.version := rfl
@[simp] theorem State.acceptFormat_databits (v : BitVec 15) : (s.acceptFormat v).databits = s.databits := rfl
@[simp] theorem State.acceptFormat_bitptr (v : BitVec 15) : (s.acceptFormat v).bitptr = s.bitptr := rfl
@[simp] theorem State.acceptFormat_plen (v : BitVec 15) : (s.acceptFormat v).plen = s.plen := rfl
@[simp] theorem State.acceptFormat_dtype (v : BitVec 15) : (s.acceptFormat v).dtype = s.dtype := rfl
@[simp] theorem State.acceptFormat_eci (v : BitVec 15) : (s.acceptFormat v).eci = s.eci := rfl
@[simp] theorem State.acceptFormat_poly (v : BitVec 15) : (s.acceptFormat v).poly = s.poly := rfl
@[simp] theorem State.acceptFormat_cw (v : BitVec 15) : (s.acceptFormat v).cw = s.cw := rfl
@[simp] theorem State.acceptFormat_data (v : BitVec 15) : (s.acceptFormat v).data = s.data := rfl
@[simp] theorem State.acceptFormat_payload (v : BitVec 15) : (s.acceptFormat v).payload = s.payload := rfl
@[simp] theorem State.acceptFormat_inbox (v : BitVec 15) : (s.acceptFormat v).inbox = s.inbox := rfl
@[simp] theorem State.acceptFormat_response (v : BitVec 15) : (s.acceptFormat v).response = s.response := rfl

/-! ### `noteType` -/

@[simp] theorem State.noteType_cfg (m : DataMode) : (s.noteType m).cfg = s.cfg := rfl
@[simp] theorem State.noteType_statusZ (m : DataMode) : (s.noteType m).statusZ = s.statusZ := rfl
@[simp] theorem State.noteType_statusIll (m : DataMode) : (s.noteType m).statusIll = s.statusIll := rfl
@[simp] theorem State.noteType_statusErrs (m : DataMode) : (s.noteType m).statusErrs = s.statusErrs := rfl
@[simp] theorem State.noteType_err (m : DataMode) : (s.noteType m).err = s.err := rfl
@[simp] theorem State.noteType_res (m : DataMode) : (s.noteType m).res = s.res := rfl
@[simp] theorem State.noteType_fmtraw (m : DataMode) : (s.noteType m).fmtraw = s.fmtraw := rfl
@[simp] theorem State.noteType_fmt (m : DataMode) : (s.noteType m).fmt = s.fmt := rfl
@[simp] theorem State.noteType_ecclvl (m : DataMode) : (s.noteType m).ecclvl = s.ecclvl := rfl
@[simp] theorem State.noteType_mask (m : DataMode) : (s.noteType m).mask = s.mask := rfl
@[simp] theorem State.noteType_version (m : DataMode) : (s.noteType m).version = s.version := rfl
@[simp] theorem State.noteType_databits (m : DataMode) : (s.noteType m).databits = s.databits := rfl
@[simp] theorem State.noteType_bitptr (m : DataMode) : (s.noteType m).bitptr = s.bitptr := rfl
@[simp] theorem State.noteType_plen (m : DataMode) : (s.noteType m).plen = s.plen := rfl
@[simp] theorem State.noteType_dtype (m : DataMode) : (s.noteType m).dtype = if s.dtype.toNat < m.code.toNat then m.code else s.dtype := rfl
@[simp] theorem State.noteType_eci (m : DataMode) : (s.noteType m).eci = s.eci := rfl
@[simp] theorem State.noteType_poly (m : DataMode) : (s.noteType m).poly = s.poly := rfl
@[simp] theorem State.noteType_cw (m : DataMode) : (s.noteType m).cw = s.cw := rfl
@[simp] theorem State.noteType_data (m : DataMode) : (s.noteType m).data = s.data := rfl
@[simp] theorem State.noteType_payload (m : DataMode) : (s.noteType m).payload = s.payload := rfl
@[simp] theorem State.noteType_inbox (m : DataMode) : (s.noteType m).inbox = s.inbox := rfl
@[simp] theorem State.noteType_response (m : DataMode) : (s.noteType m).response = s.response := rfl

/-! ### `setEci` -/

@[simp] theorem State.setEci_cfg (e : Nat) : (s.setEci e).cfg = s.cfg := rfl
@[simp] theorem State.setEci_statusZ (e : Nat) : (s.setEci e).statusZ = s.statusZ := rfl
@[simp] theorem State.setEci_statusIll (e : Nat) : (s.setEci e).statusIll = s.statusIll := rfl
@[simp] theorem State.setEci_statusErrs (e : Nat) : (s.setEci e).statusErrs = s.statusErrs := rfl
@[simp] theorem State.setEci_err (e : Nat) : (s.setEci e).err = s.err := rfl
@[simp] theorem State.setEci_res (e : Nat) : (s.setEci e).res = s.res := rfl
@[simp] theorem State.setEci_fmtraw (e : Nat) : (s.setEci e).fmtraw = s.fmtraw := rfl
@[simp] theorem State.setEci_fmt (e : Nat) : (s.setEci e).fmt = s.fmt := rfl
@[simp] theorem State.setEci_ecclvl (e : Nat) : (s.setEci e).ecclvl = s.ecclvl := rfl
@[simp] theorem State.setEci_mask (e : Nat) : (s.setEci e).mask = s.mask := rfl
@[simp] theorem State.setEci_version (e : Nat) : (s.setEci e).version = s.version := rfl
@[simp] theorem State.setEci_databits (e : Nat) : (s.setEci e).databits = s.databits := rfl
@[simp] theorem State.setEci_bitptr (e : Nat) : (s.setEci e).bitptr = s.bitptr := rfl
@[simp] theorem State.setEci_plen (e : Nat) : (s.setEci e).plen = s.plen := rfl
@[simp] theorem State.setEci_dtype (e : Nat) : (s.setEci e).dtype = s.dtype := rfl
@[simp] theorem State.setEci_eci (e : Nat) : (s.setEci e).eci = BitVec.ofNat 24 e := rfl
@[simp] theorem State.setEci_poly (e : Nat) : (s.setEci e).poly = s.poly := rfl
@[simp] theorem State.setEci_cw (e : Nat) : (s.setEci e).cw = s.cw := rfl
@[simp] theorem State.setEci_data (e : Nat) : (s.setEci e).data = s.data := rfl
@[simp] theorem State.setEci_payload (e : Nat) : (s.setEci e).payload = s.payload := rfl
@[simp] theorem State.setEci_inbox (e : Nat) : (s.setEci e).inbox = s.inbox := rfl
@[simp] theorem State.setEci_response (e : Nat) : (s.setEci e).response = s.response := rfl

/-! ### `freshRecord` -/

@[simp] theorem State.freshRecord_cfg : (s.freshRecord).cfg = s.cfg := rfl
@[simp] theorem State.freshRecord_statusZ : (s.freshRecord).statusZ = s.statusZ := rfl
@[simp] theorem State.freshRecord_statusIll : (s.freshRecord).statusIll = false := rfl
@[simp] theorem State.freshRecord_statusErrs : (s.freshRecord).statusErrs = s.statusErrs := rfl
@[simp] theorem State.freshRecord_err : (s.freshRecord).err = s.err := rfl
@[simp] theorem State.freshRecord_res : (s.freshRecord).res = s.res := rfl
@[simp] theorem State.freshRecord_fmtraw : (s.freshRecord).fmtraw = s.fmtraw := rfl
@[simp] theorem State.freshRecord_fmt : (s.freshRecord).fmt = s.fmt := rfl
@[simp] theorem State.freshRecord_ecclvl : (s.freshRecord).ecclvl = s.ecclvl := rfl
@[simp] theorem State.freshRecord_mask : (s.freshRecord).mask = s.mask := rfl
@[simp] theorem State.freshRecord_version : (s.freshRecord).version = s.version := rfl
@[simp] theorem State.freshRecord_databits : (s.freshRecord).databits = s.databits := rfl
@[simp] theorem State.freshRecord_bitptr : (s.freshRecord).bitptr = 0 := rfl
@[simp] theorem State.freshRecord_plen : (s.freshRecord).plen = 0 := rfl
@[simp] theorem State.freshRecord_dtype : (s.freshRecord).dtype = 0 := rfl
@[simp] theorem State.freshRecord_eci : (s.freshRecord).eci = 0 := rfl
@[simp] theorem State.freshRecord_poly : (s.freshRecord).poly = s.poly := rfl
@[simp] theorem State.freshRecord_cw : (s.freshRecord).cw = s.cw := rfl
@[simp] theorem State.freshRecord_data : (s.freshRecord).data = s.data := rfl
@[simp] theorem State.freshRecord_payload : (s.freshRecord).payload = s.payload := rfl
@[simp] theorem State.freshRecord_inbox : (s.freshRecord).inbox = s.inbox := rfl
@[simp] theorem State.freshRecord_response : (s.freshRecord).response = s.response := rfl

/-! ### `writeStatus` -/

@[simp] theorem State.writeStatus_cfg (v : Word) : (s.writeStatus v).cfg = s.cfg := rfl
@[simp] theorem State.writeStatus_statusZ (v : Word) : (s.writeStatus v).statusZ = s.statusZ := rfl
@[simp] theorem State.writeStatus_statusIll (v : Word) : (s.writeStatus v).statusIll = s.statusIll := rfl
@[simp] theorem State.writeStatus_statusErrs (v : Word) : (s.writeStatus v).statusErrs = (s.statusErrs && !v.getLsbD 3) := rfl
@[simp] theorem State.writeStatus_err (v : Word) : (s.writeStatus v).err = s.err := rfl
@[simp] theorem State.writeStatus_res (v : Word) : (s.writeStatus v).res = s.res := rfl
@[simp] theorem State.writeStatus_fmtraw (v : Word) : (s.writeStatus v).fmtraw = s.fmtraw := rfl
@[simp] theorem State.writeStatus_fmt (v : Word) : (s.writeStatus v).fmt = s.fmt := rfl
@[simp] theorem State.writeStatus_ecclvl (v : Word) : (s.writeStatus v).ecclvl = s.ecclvl := rfl
@[simp] theorem State.writeStatus_mask (v : Word) : (s.writeStatus v).mask = s.mask := rfl
@[simp] theorem State.writeStatus_version (v : Word) : (s.writeStatus v).version = s.version := rfl
@[simp] theorem State.writeStatus_databits (v : Word) : (s.writeStatus v).databits = s.databits := rfl
@[simp] theorem State.writeStatus_bitptr (v : Word) : (s.writeStatus v).bitptr = s.bitptr := rfl
@[simp] theorem State.writeStatus_plen (v : Word) : (s.writeStatus v).plen = s.plen := rfl
@[simp] theorem State.writeStatus_dtype (v : Word) : (s.writeStatus v).dtype = s.dtype := rfl
@[simp] theorem State.writeStatus_eci (v : Word) : (s.writeStatus v).eci = s.eci := rfl
@[simp] theorem State.writeStatus_poly (v : Word) : (s.writeStatus v).poly = s.poly := rfl
@[simp] theorem State.writeStatus_cw (v : Word) : (s.writeStatus v).cw = s.cw := rfl
@[simp] theorem State.writeStatus_data (v : Word) : (s.writeStatus v).data = s.data := rfl
@[simp] theorem State.writeStatus_payload (v : Word) : (s.writeStatus v).payload = s.payload := rfl
@[simp] theorem State.writeStatus_inbox (v : Word) : (s.writeStatus v).inbox = s.inbox := rfl
@[simp] theorem State.writeStatus_response (v : Word) : (s.writeStatus v).response = s.response := rfl

/-! ### `respond` -/

@[simp] theorem State.respond_cfg (r : BusResponse) : (s.respond r).cfg = s.cfg := rfl
@[simp] theorem State.respond_statusZ (r : BusResponse) : (s.respond r).statusZ = s.statusZ := rfl
@[simp] theorem State.respond_statusIll (r : BusResponse) : (s.respond r).statusIll = s.statusIll := rfl
@[simp] theorem State.respond_statusErrs (r : BusResponse) : (s.respond r).statusErrs = s.statusErrs := rfl
@[simp] theorem State.respond_err (r : BusResponse) : (s.respond r).err = s.err := rfl
@[simp] theorem State.respond_res (r : BusResponse) : (s.respond r).res = s.res := rfl
@[simp] theorem State.respond_fmtraw (r : BusResponse) : (s.respond r).fmtraw = s.fmtraw := rfl
@[simp] theorem State.respond_fmt (r : BusResponse) : (s.respond r).fmt = s.fmt := rfl
@[simp] theorem State.respond_ecclvl (r : BusResponse) : (s.respond r).ecclvl = s.ecclvl := rfl
@[simp] theorem State.respond_mask (r : BusResponse) : (s.respond r).mask = s.mask := rfl
@[simp] theorem State.respond_version (r : BusResponse) : (s.respond r).version = s.version := rfl
@[simp] theorem State.respond_databits (r : BusResponse) : (s.respond r).databits = s.databits := rfl
@[simp] theorem State.respond_bitptr (r : BusResponse) : (s.respond r).bitptr = s.bitptr := rfl
@[simp] theorem State.respond_plen (r : BusResponse) : (s.respond r).plen = s.plen := rfl
@[simp] theorem State.respond_dtype (r : BusResponse) : (s.respond r).dtype = s.dtype := rfl
@[simp] theorem State.respond_eci (r : BusResponse) : (s.respond r).eci = s.eci := rfl
@[simp] theorem State.respond_poly (r : BusResponse) : (s.respond r).poly = s.poly := rfl
@[simp] theorem State.respond_cw (r : BusResponse) : (s.respond r).cw = s.cw := rfl
@[simp] theorem State.respond_data (r : BusResponse) : (s.respond r).data = s.data := rfl
@[simp] theorem State.respond_payload (r : BusResponse) : (s.respond r).payload = s.payload := rfl
@[simp] theorem State.respond_inbox (r : BusResponse) : (s.respond r).inbox = s.inbox := rfl
@[simp] theorem State.respond_response (r : BusResponse) : (s.respond r).response = some r := rfl

/-! ### `popAccess` -/

@[simp] theorem State.popAccess_cfg : (s.popAccess).cfg = s.cfg := rfl
@[simp] theorem State.popAccess_statusZ : (s.popAccess).statusZ = s.statusZ := rfl
@[simp] theorem State.popAccess_statusIll : (s.popAccess).statusIll = s.statusIll := rfl
@[simp] theorem State.popAccess_statusErrs : (s.popAccess).statusErrs = s.statusErrs := rfl
@[simp] theorem State.popAccess_err : (s.popAccess).err = s.err := rfl
@[simp] theorem State.popAccess_res : (s.popAccess).res = s.res := rfl
@[simp] theorem State.popAccess_fmtraw : (s.popAccess).fmtraw = s.fmtraw := rfl
@[simp] theorem State.popAccess_fmt : (s.popAccess).fmt = s.fmt := rfl
@[simp] theorem State.popAccess_ecclvl : (s.popAccess).ecclvl = s.ecclvl := rfl
@[simp] theorem State.popAccess_mask : (s.popAccess).mask = s.mask := rfl
@[simp] theorem State.popAccess_version : (s.popAccess).version = s.version := rfl
@[simp] theorem State.popAccess_databits : (s.popAccess).databits = s.databits := rfl
@[simp] theorem State.popAccess_bitptr : (s.popAccess).bitptr = s.bitptr := rfl
@[simp] theorem State.popAccess_plen : (s.popAccess).plen = s.plen := rfl
@[simp] theorem State.popAccess_dtype : (s.popAccess).dtype = s.dtype := rfl
@[simp] theorem State.popAccess_eci : (s.popAccess).eci = s.eci := rfl
@[simp] theorem State.popAccess_poly : (s.popAccess).poly = s.poly := rfl
@[simp] theorem State.popAccess_cw : (s.popAccess).cw = s.cw := rfl
@[simp] theorem State.popAccess_data : (s.popAccess).data = s.data := rfl
@[simp] theorem State.popAccess_payload : (s.popAccess).payload = s.payload := rfl
@[simp] theorem State.popAccess_inbox : (s.popAccess).inbox = s.inbox.tail := rfl
@[simp] theorem State.popAccess_response : (s.popAccess).response = s.response := rfl

end Sys2Proof.Machine
end

