-- ==== Sys2Proof/Laws/Memory.lean ====
section
/-!
SUPPORT. The laws of byte spaces: what a read gives after a write, and that every operation keeps the canonical form.
-/

namespace Sys2Proof.Machine

namespace Memory

@[simp] theorem read_nil (a : Nat) : Memory.read [] a = 0 := rfl

theorem read_cons (c : Host.Cell) (m : Memory) (a : Nat) :
    Memory.read (c :: m) a = if c.1 = a then c.2 else Memory.read m a := rfl

theorem read_clear (m : Memory) (a b : Nat) : Memory.read (Memory.clear m a) b = if a = b then 0 else Memory.read m b := by
  induction m with
  | nil => simp [Memory.clear]
  | cons c m ih =>
    by_cases h : c.1 = a
    · have hc : Memory.clear (c :: m) a = Memory.clear m a := by simp [Memory.clear, h]
      rw [hc, ih, read_cons]
      by_cases hb : a = b
      · simp [hb]
      · simp [hb, h]
    · have hc : Memory.clear (c :: m) a = c :: Memory.clear m a := by simp [Memory.clear, h]
      rw [hc, read_cons, read_cons, ih]
      by_cases hb : a = b
      · subst hb; simp [h]
      · simp [hb]

theorem read_put (a : Nat) (v : Byte) (m : Memory) (h : ∀ c ∈ m, c.1 ≠ a) (b : Nat) :
    Memory.read (Memory.put a v m) b = if a = b then v else Memory.read m b := by
  induction m with
  | nil => simp [Memory.put, read_cons]
  | cons c m ih =>
    have hc : c.1 ≠ a := h c (by simp)
    have hm := ih (fun d hd => h d (by simp [hd]))
    unfold Memory.put
    split
    · rw [read_cons]
    · rw [read_cons, hm, read_cons]
      by_cases hb : a = b
      · subst hb; simp [hc]
      · simp [hb]

theorem clear_ne (m : Memory) (a : Nat) : ∀ c ∈ Memory.clear m a, c.1 ≠ a := by
  intro c hc
  simpa [Memory.clear] using (List.mem_filter.1 hc).2

/-- The whole of what a write does to reads. -/
theorem read_write (m : Memory) (a : Nat) (v : Byte) (b : Nat) :
    Memory.read (Memory.write m a v) b = if a = b then v else Memory.read m b := by
  unfold Memory.write
  split
  next h => rw [read_clear, h]; rfl
  next => rw [read_put a v _ (clear_ne m a), read_clear]; split <;> rfl

@[simp] theorem read_write_same (m : Memory) (a : Nat) (v : Byte) : Memory.read (Memory.write m a v) a = v := by
  simp [read_write]

theorem read_write_ne (m : Memory) {a b : Nat} (v : Byte) (h : a ≠ b) :
    Memory.read (Memory.write m a v) b = Memory.read m b := by
  simp [read_write, h]

/-- The whole of what writing a list does to reads. -/
theorem read_writeList (m : Memory) (a : Nat) (vs : List Byte) (b : Nat) :
    Memory.read (Memory.writeList m a vs) b =
      if a ≤ b ∧ b < a + vs.length then vs.getD (b - a) 0 else Memory.read m b := by
  induction vs generalizing m a with
  | nil =>
    have : ¬ (a ≤ b ∧ b < a) := by omega
    simp [Memory.writeList, this]
  | cons v vs ih =>
    rw [Memory.writeList, ih, read_write]
    simp only [List.length_cons]
    by_cases h1 : a + 1 ≤ b ∧ b < a + 1 + vs.length
    · have h2 : a ≤ b ∧ b < a + (vs.length + 1) := by omega
      have h3 : b - a = (b - (a + 1)) + 1 := by omega
      simp [h1, h2, h3]
    · by_cases h4 : a = b
      · subst h4; simp
      · have h2 : ¬ (a ≤ b ∧ b < a + (vs.length + 1)) := by omega
        rw [if_neg h1, if_neg h2, if_neg h4]

theorem mem_put {a : Nat} {v : Byte} {m : Memory} {c : Host.Cell} (h : c ∈ Memory.put a v m) : c = (a, v) ∨ c ∈ m := by
  induction m with
  | nil => simpa [Memory.put] using h
  | cons d m ih =>
    unfold Memory.put at h
    split at h
    · rcases List.mem_cons.1 h with h | h
      · exact .inl h
      · exact .inr h
    · rcases List.mem_cons.1 h with h | h
      · exact .inr (by simp [h])
      · rcases ih h with h | h
        · exact .inl h
        · exact .inr (by simp [h])

theorem put_sorted (a : Nat) (v : Byte) (m : Memory) (h : ∀ c ∈ m, c.1 ≠ a)
    (hs : (m.map Prod.fst).Pairwise (· < ·)) : ((Memory.put a v m).map Prod.fst).Pairwise (· < ·) := by
  induction m with
  | nil => simp [Memory.put]
  | cons c m ih =>
    have hs' := List.pairwise_cons.1 hs
    unfold Memory.put
    split
    next hlt =>
      refine List.pairwise_cons.2 ⟨fun b hb => ?_, hs⟩
      rcases List.mem_cons.1 hb with hb | hb
      · simpa [hb] using hlt
      · exact lt_trans hlt (hs'.1 b hb)
    next hge =>
      refine List.pairwise_cons.2 ⟨fun b hb => ?_, ih (fun d hd => h d (by simp [hd])) hs'.2⟩
      obtain ⟨d, hd, rfl⟩ := List.mem_map.1 hb
      rcases mem_put hd with rfl | hd
      · have := h c (by simp)
        show c.1 < a
        omega
      · exact hs'.1 _ (List.mem_map.2 ⟨d, hd, rfl⟩)

theorem clear_wf {m : Memory} (h : Memory.wf m) (a : Nat) : Memory.wf (Memory.clear m a) :=
  ⟨List.Pairwise.sublist (List.Sublist.map _ List.filter_sublist) h.1, fun c hc => h.2 c (List.mem_filter.1 hc).1⟩

/-- A write keeps the canonical form. -/
theorem write_wf {m : Memory} (h : Memory.wf m) (a : Nat) (v : Byte) : Memory.wf (Memory.write m a v) := by
  unfold Memory.write
  split
  · exact clear_wf h a
  next hv =>
    refine ⟨put_sorted a v _ (clear_ne m a) (clear_wf h a).1, fun c hc => ?_⟩
    rcases mem_put hc with rfl | hc
    · exact hv
    · exact (clear_wf h a).2 c hc

/-- Writing a list keeps the canonical form. -/
theorem writeList_wf {m : Memory} (h : Memory.wf m) (a : Nat) (vs : List Byte) : Memory.wf (Memory.writeList m a vs) := by
  induction vs generalizing m a with
  | nil => exact h
  | cons v vs ih => exact ih (write_wf h a v) (a + 1)

theorem write_below {m : Memory} {n : Nat} (h : Memory.below m n) {a : Nat} (ha : a < n) (v : Byte) :
    Memory.below (Memory.write m a v) n := by
  intro c hc
  unfold Memory.write at hc
  split at hc
  · exact h c (List.mem_filter.1 hc).1
  · rcases mem_put hc with rfl | hc
    · exact ha
    · exact h c (List.mem_filter.1 hc).1

theorem writeList_below {m : Memory} {n : Nat} (h : Memory.below m n) {a : Nat} (vs : List Byte)
    (ha : a + vs.length ≤ n) : Memory.below (Memory.writeList m a vs) n := by
  induction vs generalizing m a with
  | nil => exact h
  | cons v vs ih =>
    simp only [List.length_cons] at ha
    exact ih (write_below h (by omega) v) (by omega)

theorem nil_wf : Memory.wf [] := ⟨List.Pairwise.nil, by simp⟩

/-- Two byte spaces in canonical form that read alike everywhere are the same data. -/
theorem ext_of_read {m n : Memory} (hm : Memory.wf m) (hn : Memory.wf n) (h : ∀ a, Memory.read m a = Memory.read n a) :
    m = n := by
  have low : ∀ {k : Memory} {a : Nat}, (∀ c ∈ k, a < c.1) → Memory.read k a = 0 := by
    intro k a hk
    induction k with
    | nil => rfl
    | cons c k ih =>
      have : c.1 ≠ a := by have := hk c (by simp); omega
      rw [read_cons, if_neg this]
      exact ih fun d hd => hk d (by simp [hd])
  have above : ∀ {c : Host.Cell} {k : Memory}, Memory.wf (c :: k) → ∀ d ∈ k, c.1 < d.1 := by
    intro c k hk d hd
    exact (List.pairwise_cons.1 hk.1).1 _ (List.mem_map.2 ⟨d, hd, rfl⟩)
  have tail : ∀ {c : Host.Cell} {k : Memory}, Memory.wf (c :: k) → Memory.wf k := by
    intro c k hk
    exact ⟨(List.pairwise_cons.1 hk.1).2, fun d hd => hk.2 d (by simp [hd])⟩
  induction m generalizing n with
  | nil =>
    cases n with
    | nil => rfl
    | cons d n =>
      have := h d.1
      rw [read_cons, if_pos rfl] at this
      exact absurd this.symm (hn.2 d (by simp))
  | cons c m ih =>
    cases n with
    | nil =>
      have := h c.1
      rw [read_cons, if_pos rfl] at this
      exact absurd this (hm.2 c (by simp))
    | cons d n =>
      have hk : c.1 = d.1 := by
        rcases lt_trichotomy c.1 d.1 with hlt | he | hlt
        · have h1 := h c.1
          rw [read_cons, if_pos rfl, low (fun e he => ?_)] at h1
          · exact absurd h1 (hm.2 c (by simp))
          · rcases List.mem_cons.1 he with rfl | he
            · exact hlt
            · exact lt_trans hlt (above hn e he)
        · exact he
        · have h1 := h d.1
          rw [read_cons d, if_pos rfl, low (fun e he => ?_)] at h1
          · exact absurd h1.symm (hn.2 d (by simp))
          · rcases List.mem_cons.1 he with rfl | he
            · exact hlt
            · exact lt_trans hlt (above hm e he)
      have hv : c.2 = d.2 := by
        have h1 := h c.1
        rwa [read_cons, if_pos rfl, read_cons, if_pos hk.symm] at h1
      have ht : m = n := by
        refine ih (tail hm) (tail hn) fun a => ?_
        by_cases ha : c.1 = a
        · rw [low (fun e he => ha ▸ above hm e he), low (fun e he => ha ▸ hk ▸ above hn e he)]
        · have h1 := h a
          rwa [read_cons, if_neg ha, read_cons, if_neg (hk ▸ ha)] at h1
      rw [ht, Prod.ext hk hv]

end Memory

end Sys2Proof.Machine
end

