-- ==== Sys2Proof/Laws/Ops.lean ====
section
/-!
SUPPORT. What each shared operation does, said once: polynomial registers, emission, the bit source, `finish`, and the
segment decoder.
-/

namespace Sys2Proof.Machine

/-! ### Polynomials as lists -/

/-- A coefficient of a polynomial given by a function. -/
@[simp] theorem coeff_map_range (m : Nat) (g : Nat → Byte) (i : Nat) :
    coeff ((List.range m).map g) i = if i < m then g i else 0 := by
  unfold coeff
  by_cases h : i < m <;> simp [List.getD_eq_getElem?_getD, h]

theorem coeff_polyOne (m i : Nat) : coeff (polyOne m) i = if i = 0 ∧ 0 < m then 1 else 0 := by
  rw [polyOne, coeff_map_range]
  by_cases h : i = 0
  · subst h; simp
  · simp [h]

theorem coeff_padd (f : GField) (m : Nat) (dst src : List Byte) (c : Byte) (shift q : Nat) (hc : c ≠ 0) :
    coeff (padd f m dst src c shift) q =
      if q < m then
        if q < shift then coeff dst q
        else elem f (coeff dst q) ^^^ gfMul f (elem f (coeff src (q - shift))) c
      else 0 := by
  rw [padd, if_neg hc, coeff_map_range]

theorem padd_zero_scale (f : GField) (m : Nat) (dst src : List Byte) (shift : Nat) :
    padd f m dst src 0 shift = dst := by
  simp [padd]

@[simp] theorem gfSum_zero (g : Nat → Byte) : gfSum 0 g = 0 := rfl

theorem gfSum_succ (n : Nat) (g : Nat → Byte) : gfSum (n + 1) g = gfSum n g ^^^ g n := by
  simp [gfSum, List.range_succ]

theorem bmRun_succ (f : GField) (m : Nat) (syn : List Byte) (n : Nat) :
    bmRun f m syn (n + 1) = bmStep f m syn (bmRun f m syn n) n := by
  simp [bmRun, List.range_succ]

/-! ### Polynomial registers -/

theorem State.polyByte_eq (s : State) (n i : Nat) : s.polyByte n i = s.poly.read (n * s.cfg.maxPoly + i) := rfl

@[simp] theorem State.coeff_getPoly (s : State) (n i : Nat) :
    coeff (s.getPoly n) i = if i < s.cfg.maxPoly then s.polyByte n i else 0 := by
  rw [State.getPoly, coeff_map_range]

/-- The whole of what writing a polynomial register does to the polynomial space. -/
theorem State.setPoly_read (s : State) (n : Nat) (p : List Byte) (a : Nat) :
    (s.setPoly n p).poly.read a =
      if n * s.cfg.maxPoly ≤ a ∧ a < n * s.cfg.maxPoly + s.cfg.maxPoly then coeff p (a - n * s.cfg.maxPoly)
      else s.poly.read a := by
  show Memory.read (Memory.writeList _ _ _) a = _
  rw [Memory.read_writeList]
  simp only [List.length_map, List.length_range]
  split
  next h =>
    have hi : a - n * s.cfg.maxPoly < s.cfg.maxPoly := by omega
    have := coeff_map_range s.cfg.maxPoly (coeff p) (a - n * s.cfg.maxPoly)
    rw [if_pos hi] at this
    exact this
  · rfl

theorem State.setPoly_polyByte_same (s : State) (n : Nat) (p : List Byte) {i : Nat} (hi : i < s.cfg.maxPoly) :
    (s.setPoly n p).polyByte n i = coeff p i := by
  rw [State.polyByte_eq, State.setPoly_cfg, State.setPoly_read, if_pos (by omega)]
  congr 1
  omega

/-- Two different registers share no byte. -/
theorem polyIndex_disjoint {n k m i j : Nat} (hne : n ≠ k) (hi : i < m) (hj : j < m) : n * m + i ≠ k * m + j := by
  intro h
  rcases Nat.lt_or_gt_of_ne hne with hlt | hlt
  · have : (n + 1) * m ≤ k * m := Nat.mul_le_mul_right m hlt
    rw [Nat.add_mul] at this
    omega
  · have : (k + 1) * m ≤ n * m := Nat.mul_le_mul_right m hlt
    rw [Nat.add_mul] at this
    omega

theorem State.setPoly_polyByte_ne (s : State) {n k : Nat} (hne : n ≠ k) (p : List Byte) {i : Nat}
    (hi : i < s.cfg.maxPoly) : (s.setPoly n p).polyByte k i = s.polyByte k i := by
  rw [State.polyByte_eq, State.setPoly_cfg, State.setPoly_read, if_neg]
  · rfl
  · intro h
    have hj : k * s.cfg.maxPoly + i - n * s.cfg.maxPoly < s.cfg.maxPoly := by omega
    exact polyIndex_disjoint hne hj hi (by omega)

theorem State.setPoly_wf (s : State) (n : Nat) (p : List Byte) (h : s.poly.wf) : (s.setPoly n p).poly.wf :=
  Memory.writeList_wf h _ _

theorem State.setPoly_below (s : State) {n : Nat} (p : List Byte) (hn : n < 8)
    (h : s.poly.below (8 * s.cfg.maxPoly)) : (s.setPoly n p).poly.below (8 * s.cfg.maxPoly) := by
  refine Memory.writeList_below h _ ?_
  simp only [List.length_map, List.length_range]
  have : (n + 1) * s.cfg.maxPoly ≤ 8 * s.cfg.maxPoly := Nat.mul_le_mul_right _ hn
  rw [Nat.add_mul] at this
  omega

/-! ### The bit source -/

theorem State.field_none {s : State} {n : Nat} : s.field n = none ↔ s.remaining < n := by
  unfold State.field
  split <;> simp_all

/-- What a field that fits answers: the bits, and the pointer moved past them. -/
theorem State.field_some {s : State} {n : Nat} {r : Nat × State} :
    s.field n = some r ↔ n ≤ s.remaining ∧ r = (s.streamBits s.bitptr.toNat n, s.advance n) := by
  unfold State.field State.take
  split
  next h => simp; omega
  next h =>
    simp only [Option.some.injEq]
    constructor
    · rintro rfl; exact ⟨by omega, rfl⟩
    · rintro ⟨-, rfl⟩; rfl

theorem State.field_of_le {s : State} {n : Nat} (h : n ≤ s.remaining) :
    s.field n = some (s.streamBits s.bitptr.toNat n, s.advance n) := State.field_some.2 ⟨h, rfl⟩

/-- Inside the stream the pointer does not wrap. -/
theorem State.advance_bitptr_toNat {s : State} {n : Nat} (h : n ≤ s.remaining) (hp : s.bitptr.toNat ≤ s.databits.toNat) :
    (s.advance n).bitptr.toNat = s.bitptr.toNat + n := by
  have hd := s.databits.isLt
  unfold State.remaining at h
  rw [State.advance_bitptr, BitVec.toNat_add, BitVec.toNat_ofNat]
  omega

theorem State.advance_remaining {s : State} {n : Nat} (h : n ≤ s.remaining) (hp : s.bitptr.toNat ≤ s.databits.toNat) :
    (s.advance n).remaining = s.remaining - n := by
  unfold State.remaining
  rw [State.advance_bitptr_toNat h hp, State.advance_databits]
  omega

theorem State.streamBits_congr {s t : State} (h : s.data = t.data) (k n : Nat) : s.streamBits k n = t.streamBits k n := by
  simp [State.streamBits, State.streamBit, h]

/-! ### The payload buffer -/

/-- The whole of what an emission does to the payload space. -/
theorem State.emit_read (s : State) (bs : List Byte) (a : Nat) :
    (s.emit bs).payload.read a =
      if s.plen.toNat ≤ a ∧ a < s.plen.toNat + bs.length then bs.getD (a - s.plen.toNat) 0 else s.payload.read a :=
  Memory.read_writeList _ _ _ _

theorem State.finish_none (s : State) : s.finish none =
    { s with
      plen := if s.cfg.payloadCap ≤ s.plen.toNat then s.plen - 1 else s.plen
      payload := s.payload.write (if s.cfg.payloadCap ≤ s.plen.toNat then s.plen - 1 else s.plen).toNat 0
      err := 0
      statusIll := false } := rfl

theorem State.finish_some (s : State) (k : ErrKind) : s.finish (some k) =
    { s with
      plen := if s.cfg.payloadCap ≤ s.plen.toNat then s.plen - 1 else s.plen
      payload := s.payload.write (if s.cfg.payloadCap ≤ s.plen.toNat then s.plen - 1 else s.plen).toNat 0
      err := k.code
      statusErrs := true
      statusIll := false } := rfl

/-! ### Segments: what they leave alone -/

/-- The state a segment leaves. -/
def SegResult.state : SegResult → State
  | .decoded s => s
  | .stopped _ s => s

/-- The state a turn leaves, before any `finish`. -/
def Turn.state : Turn → State
  | .more s => s
  | .stop _ s => s

/-- t differs from s in the bit pointer and the `Data` record only. -/
def SameButRecord (s t : State) : Prop :=
  t = { s with bitptr := t.bitptr, plen := t.plen, dtype := t.dtype, eci := t.eci, payload := t.payload }

theorem SameButRecord.refl (s : State) : SameButRecord s s := rfl

theorem SameButRecord.trans {s t u : State} (h : SameButRecord s t) (h' : SameButRecord t u) : SameButRecord s u := by
  unfold SameButRecord at *
  rw [h'] ; rw [h]

theorem sameButRecord_advance (s : State) (n : Nat) : SameButRecord s (s.advance n) := rfl

theorem sameButRecord_emit (s : State) (bs : List Byte) : SameButRecord s (s.emit bs) := rfl

theorem sameButRecord_setEci (s : State) (e : Nat) : SameButRecord s (s.setEci e) := rfl

theorem sameButRecord_noteType (s : State) (m : DataMode) : SameButRecord s (s.noteType m) := rfl

theorem sameButRecord_decodeGroups (m : DataMode) (ks : List Nat) (s : State) :
    SameButRecord s (decodeGroups m ks s).state := by
  induction ks generalizing s with
  | nil => exact .refl s
  | cons k ks ih =>
    unfold decodeGroups
    cases h : s.field (m.groupWidth k) with
    | none => exact .refl s
    | some r =>
      obtain ⟨-, rfl⟩ := State.field_some.1 h
      exact ((sameButRecord_advance s _).trans (sameButRecord_emit _ _)).trans (ih _)

theorem sameButRecord_dataSegment (m : DataMode) (s : State) : SameButRecord s (dataSegment m s).state := by
  unfold dataSegment
  cases h : s.field (m.countWidth s.version.toNat) with
  | none => exact .refl s
  | some r =>
    obtain ⟨-, rfl⟩ := State.field_some.1 h
    dsimp only
    split
    · exact sameButRecord_advance s _
    · exact (sameButRecord_advance s _).trans (sameButRecord_decodeGroups _ _ _)

theorem sameButRecord_eciSegment (s : State) : SameButRecord s (eciSegment s).state := by
  have two (n b e : Nat) : SameButRecord s (((s.advance n).advance b).setEci e) :=
    ((sameButRecord_advance s n).trans (sameButRecord_advance _ b)).trans (sameButRecord_setEci _ e)
  unfold eciSegment
  cases h : s.field 8 with
  | none => exact .refl s
  | some r =>
    obtain ⟨-, rfl⟩ := State.field_some.1 h
    dsimp only
    split
    · cases h8 : (s.advance 8).field 8 with
      | none => exact sameButRecord_advance s _
      | some q =>
        obtain ⟨-, rfl⟩ := State.field_some.1 h8
        exact two _ _ _
    · split
      · cases h16 : (s.advance 8).field 16 with
        | none => exact sameButRecord_advance s _
        | some q =>
          obtain ⟨-, rfl⟩ := State.field_some.1 h16
          exact two _ _ _
      · exact (sameButRecord_advance s _).trans (sameButRecord_setEci _ _)

theorem dataTurn_state (m : DataMode) (s : State) : SameButRecord s (dataTurn m s).state := by
  have h := sameButRecord_dataSegment m s
  unfold dataTurn
  cases hd : dataSegment m s with
  | decoded t => rw [hd] at h; exact h.trans (sameButRecord_noteType t m)
  | stopped k t => rw [hd] at h; exact h

theorem eciTurn_state (s : State) : SameButRecord s (eciTurn s).state := by
  have h := sameButRecord_eciSegment s
  unfold eciTurn
  cases hd : eciSegment s with
  | decoded t => rw [hd] at h; exact h
  | stopped k t => rw [hd] at h; exact h

/-- A turn changes the bit pointer and the record only. -/
theorem turn_state (mode : BitVec 4) (s : State) : SameButRecord s (turn mode s).state := by
  unfold turn
  split
  · exact dataTurn_state _ s
  split
  · exact dataTurn_state _ s
  split
  · exact dataTurn_state _ s
  split
  · exact dataTurn_state _ s
  split
  · exact eciTurn_state s
  · exact .refl s

/-- The loop changes the bit pointer and the record only. -/
theorem payloadLoop_state (n : Nat) (s : State) : SameButRecord s (payloadLoop n s).2 := by
  induction n generalizing s with
  | zero => exact .refl s
  | succ n ih =>
    unfold payloadLoop
    split
    · exact .refl s
    · have h := turn_state (BitVec.ofNat 4 (s.take 4).1) (s.take 4).2
      cases ht : turn (BitVec.ofNat 4 (s.take 4).1) (s.take 4).2 with
      | more t => rw [ht] at h; exact ((sameButRecord_advance s 4).trans h).trans (ih t)
      | stop e t => rw [ht] at h; exact (sameButRecord_advance s 4).trans h

/-! ### Steps -/

/-- The whole of what one step can be: idle, an access that ends by itself, a command's meaning, an illegal word. -/
theorem step_cases (s : State) :
    (s.inbox = [] ∧ step s = .next s) ∨
    (∃ a rest t, s.inbox = a :: rest ∧ s.popAccess.access a = .finished t ∧ step s = .next t) ∨
    (∃ a rest w t i, s.inbox = a :: rest ∧ s.popAccess.access a = .command w t ∧ decodeWord w = .ok i ∧
      step s = exec i t) ∨
    (∃ a rest w t e, s.inbox = a :: rest ∧ s.popAccess.access a = .command w t ∧ decodeWord w = .error e ∧
      step s = .next t.illegal) := by
  cases hi : s.inbox with
  | nil => exact .inl ⟨rfl, by simp [step, hi]⟩
  | cons a rest =>
    refine .inr ?_
    cases ha : s.popAccess.access a with
    | finished t => exact .inl ⟨a, rest, t, rfl, ha, by simp [step, hi, ha, runEffect]⟩
    | command w t =>
      refine .inr ?_
      cases hd : decodeWord w with
      | ok i => exact .inl ⟨a, rest, w, t, i, rfl, ha, hd, by simp [step, hi, ha, runEffect, runWord, decode, hd]⟩
      | error e =>
        exact .inr ⟨a, rest, w, t, e, rfl, ha, hd,
          by simp [step, hi, ha, runEffect, runWord, decode, hd, State.rejectWord]⟩

end Sys2Proof.Machine
end

