-- ==== Sys2Proof/Laws/PerInstr.lean ====
section
/-!
SUPPORT. The fields of an encoded command word, and the per-instruction law `EncodedForm`.
-/

namespace Sys2Proof

section Fields

variable (o : Opcode) (f : BitVec 1) (pd ps : PolyIdx) (a b : Byte)

@[simp] theorem opField_commandWord : opField (commandWord o f pd ps a b) = o.code := by
  unfold opField commandWord
  ext i hi
  rw [BitVec.getElem_extractLsb']
  simp only [BitVec.getLsbD_append]
  simp [hi]

@[simp] theorem fField_commandWord : fField (commandWord o f pd ps a b) = f := by
  unfold fField commandWord
  ext i hi
  obtain rfl : i = 0 := by omega
  rw [BitVec.getElem_extractLsb']
  simp only [BitVec.getLsbD_append]
  simp

@[simp] theorem pdField_commandWord : pdField (commandWord o f pd ps a b) = pd := by
  unfold pdField commandWord
  ext i hi
  rw [BitVec.getElem_extractLsb']
  simp only [BitVec.getLsbD_append]
  interval_cases i <;> simp

@[simp] theorem psField_commandWord : psField (commandWord o f pd ps a b) = ps := by
  unfold psField commandWord
  ext i hi
  rw [BitVec.getElem_extractLsb']
  simp only [BitVec.getLsbD_append]
  interval_cases i <;> simp

@[simp] theorem bit15Field_commandWord : bit15Field (commandWord o f pd ps a b) = 0 := by
  unfold bit15Field commandWord
  ext i hi
  obtain rfl : i = 0 := by omega
  rw [BitVec.getElem_extractLsb']
  simp only [BitVec.getLsbD_append]
  simp

@[simp] theorem aField_commandWord : aField (commandWord o f pd ps a b) = a := by
  unfold aField commandWord
  ext i hi
  rw [BitVec.getElem_extractLsb']
  simp only [BitVec.getLsbD_append]
  interval_cases i <;> simp

@[simp] theorem bField_commandWord : bField (commandWord o f pd ps a b) = b := by
  unfold bField commandWord
  ext i hi
  rw [BitVec.getElem_extractLsb']
  simp only [BitVec.getLsbD_append]
  interval_cases i <;> simp

end Fields

@[simp] theorem opcodeOf_code (o : Opcode) : opcodeOf o.code = some o := by cases o <;> decide

@[simp] theorem fieldOfBit_bitOfField (f : GField) : fieldOfBit (bitOfField f) = f := by cases f <;> decide

namespace Laws.EncodedForm

/-- A command's word carries an opcode of the table and nothing in the fields that opcode leaves unused (30_encoding.md
R61); a segment's indicator is one of the five that open fields exactly when it is not SEG.END's (R65). -/
def Statement (i : Instr) : Prop :=
  match encode i with
  | .cmd32 w => ∃ o, opcodeOf (opField w) = some o ∧ unusedFieldError o w = none
  | .seg4 m => i.wellFormed = true → (isSegmentMode m = false ↔ ∃ k, i = .segEnd k)

theorem nop : Statement .nop := ⟨.nop, by simp, by simp [unusedFieldError, Opcode.uses]⟩
theorem gfexp (f : GField) (idx : Byte) : Statement (.gfexp f idx) :=
  ⟨.gfexp, by simp, by simp [unusedFieldError, Opcode.uses]⟩
theorem gflog (f : GField) (a : Byte) : Statement (.gflog f a) :=
  ⟨.gflog, by simp, by simp [unusedFieldError, Opcode.uses]⟩
theorem peval (f : GField) (ps : PolyIdx) (x : Byte) : Statement (.peval f ps x) :=
  ⟨.peval, by simp, by simp [unusedFieldError, Opcode.uses]⟩
theorem padd (f : GField) (pd ps : PolyIdx) (c shift : Byte) : Statement (.padd f pd ps c shift) :=
  ⟨.padd, by simp, by simp [unusedFieldError, Opcode.uses]⟩
theorem bm (f : GField) (n : Byte) : Statement (.bm f n) := ⟨.bm, by simp, by simp [unusedFieldError, Opcode.uses]⟩
theorem fsyn : Statement .fsyn := ⟨.fsyn, by simp, by simp [unusedFieldError, Opcode.uses]⟩
theorem fcorr : Statement .fcorr := ⟨.fcorr, by simp, by simp [unusedFieldError, Opcode.uses]⟩
theorem bsyn (bs npar : Byte) : Statement (.bsyn bs npar) :=
  ⟨.bsyn, by simp, by simp [unusedFieldError, Opcode.uses]⟩
theorem eevp (npar : Byte) : Statement (.eevp npar) := ⟨.eevp, by simp, by simp [unusedFieldError, Opcode.uses]⟩
theorem bcorr (bs dw : Byte) : Statement (.bcorr bs dw) :=
  ⟨.bcorr, by simp, by simp [unusedFieldError, Opcode.uses]⟩
theorem vers (size : Byte) : Statement (.vers size) := ⟨.vers, by simp, by simp [unusedFieldError, Opcode.uses]⟩
theorem take (n : Byte) : Statement (.take n) := ⟨.take, by simp, by simp [unusedFieldError, Opcode.uses]⟩
theorem payload : Statement .payload := ⟨.payload, by simp, by simp [unusedFieldError, Opcode.uses]⟩
theorem segNum : Statement .segNum := fun _ => by simp [isSegmentMode]
theorem segAlnum : Statement .segAlnum := fun _ => by simp [isSegmentMode]
theorem segByte : Statement .segByte := fun _ => by simp [isSegmentMode]
theorem segKanji : Statement .segKanji := fun _ => by simp [isSegmentMode]
theorem segEci : Statement .segEci := fun _ => by simp [isSegmentMode]
theorem segEnd (mode : BitVec 4) : Statement (.segEnd mode) := fun h =>
  ⟨fun _ => ⟨mode, rfl⟩, fun _ => by simpa [Instr.wellFormed] using h⟩

end Laws.EncodedForm

end Sys2Proof
end

