-- ==== Sys2Proof/Tests/Slice0.lean ====
section
/-!
SUPPORT. Small tests, their expected values from spec/95_test_vectors.md and the worked examples of the rules, and for each
statement with hypotheses one theorem that shows a concrete state and operands that meet them.
-/

namespace Sys2Proof.Tests

set_option Elab.async false

open Sys2Proof Sys2Proof.Machine Sys2Proof.Stmt

/-! ### Well-formedness: an ill-formed term for each check, refused -/

theorem test_wellFormed_refuses_segEnd_of_numeric : (Instr.segEnd 1).wellFormed = false := by decide
theorem test_wellFormed_refuses_segEnd_of_alnum : (Instr.segEnd 2).wellFormed = false := by decide
theorem test_wellFormed_refuses_segEnd_of_byte : (Instr.segEnd 4).wellFormed = false := by decide
theorem test_wellFormed_refuses_segEnd_of_eci : (Instr.segEnd 7).wellFormed = false := by decide
theorem test_wellFormed_refuses_segEnd_of_kanji : (Instr.segEnd 8).wellFormed = false := by decide
/-- R65: the eleven other indicators. -/
theorem test_wellFormed_accepts_the_eleven_ends :
    ([0, 3, 5, 6, 9, 10, 11, 12, 13, 14, 15] : List (BitVec 4)).all (fun m => (Instr.segEnd m).wellFormed) = true := by
  decide

/-! ### Decoding: one word a constructor, written out from 30_encoding.md R60 to R65 (words of V3.1 and V2.4 to V2.8) -/

theorem test_decode_nop : decode (.cmd32 0b00000000_00000000_0_000_000_0_00000000) = .ok .nop := by decide
theorem test_decode_gfexp : decode (.cmd32 0b00000000_00011001_0_000_000_0_00000001) = .ok (.gfexp .gf256 25) := by decide
theorem test_decode_gflog : decode (.cmd32 0b00000000_00001011_0_000_000_1_00000010) = .ok (.gflog .gf16 0x0B) := by decide
theorem test_decode_peval : decode (.cmd32 0b00000000_10001110_0_001_000_0_00000011) = .ok (.peval .gf256 1 0x8E) := by
  decide
theorem test_decode_padd : decode (.cmd32 0b00000011_00011101_0_101_100_0_00000100) = .ok (.padd .gf256 4 5 0x1D 3) := by
  decide
theorem test_decode_bm : decode (.cmd32 0b00000000_00000110_0_000_000_1_00010000) = .ok (.bm .gf16 6) := by decide
theorem test_decode_fsyn : decode (.cmd32 0b00000000_00000000_0_000_000_0_00010001) = .ok .fsyn := by decide
theorem test_decode_fcorr : decode (.cmd32 0b00000000_00000000_0_000_000_0_00010010) = .ok .fcorr := by decide
theorem test_decode_bsyn : decode (.cmd32 0b00001101_00011010_0_000_000_0_00010011) = .ok (.bsyn 26 13) := by decide
theorem test_decode_eevp : decode (.cmd32 0b00000000_00001101_0_000_000_0_00010100) = .ok (.eevp 13) := by decide
theorem test_decode_bcorr : decode (.cmd32 0b00001101_00011010_0_000_000_0_00010101) = .ok (.bcorr 26 13) := by decide
theorem test_decode_vers : decode (.cmd32 0b00000000_00010101_0_000_000_0_00100000) = .ok (.vers 21) := by decide
theorem test_decode_take : decode (.cmd32 0b00000000_00000100_0_000_000_0_00100001) = .ok (.take 4) := by decide
theorem test_decode_payload : decode (.cmd32 0b00000000_00000000_0_000_000_0_00100010) = .ok .payload := by decide
theorem test_decode_segNum : decode (.seg4 0b0001) = .ok .segNum := by decide
theorem test_decode_segAlnum : decode (.seg4 0b0010) = .ok .segAlnum := by decide
theorem test_decode_segByte : decode (.seg4 0b0100) = .ok .segByte := by decide
theorem test_decode_segKanji : decode (.seg4 0b1000) = .ok .segKanji := by decide
theorem test_decode_segEci : decode (.seg4 0b0111) = .ok .segEci := by decide
theorem test_decode_segEnd : decode (.seg4 0b0101) = .ok (.segEnd 5) := by decide

/-- V3.2: why each word is illegal. -/
theorem test_decode_refuses_unused_b : decode (.cmd32 0x01190001) = .error (.unusedFieldSet .fieldB) := by decide
theorem test_decode_refuses_unused_pd : decode (.cmd32 0x00190201) = .error (.unusedFieldSet .fieldPD) := by decide
theorem test_decode_refuses_unused_ps : decode (.cmd32 0x00001001) = .error (.unusedFieldSet .fieldPS) := by decide
theorem test_decode_refuses_unused_f : decode (.cmd32 0x00000111) = .error (.unusedFieldSet .fieldF) := by decide
theorem test_decode_refuses_unused_a : decode (.cmd32 0x00010022) = .error (.unusedFieldSet .fieldA) := by decide
theorem test_decode_refuses_bit15 : decode (.cmd32 0x00008000) = .error .bit15Set := by decide
theorem test_decode_refuses_reserved : decode (.cmd32 0x00000005) = .error (.reservedOpcode 5) := by decide
/-- R41: the byte at the lowest address carries bits 7:0. -/
theorem test_decodeBytes_little_endian : decodeBytes [0x13, 0x00, 0x1A, 0x0D] = .ok (.bsyn 26 13) := by decide
theorem test_decodeBytes_refuses_two_bytes : decodeBytes [0x13, 0x00] = .error (.wrongLength 2) := by decide

theorem test_decodeTableWord_command : decodeTableWord 32 0x0D1A0015 = some (.bcorr 26 13) := by decide
theorem test_decodeTableWord_segment : decodeTableWord 8 0b0111 = some .segEci := by decide
theorem test_decodeTableWord_refuses : decodeTableWord 32 0x00008000 = none := by decide

/-! ### A small engine -/

/-- The smallest parameters with eight payload bytes (V6.8's capacity). -/
def tiny : Config := { maxPoly := 8, payloadCap := 8, dataCap := 16, base := 65536 }

/-- A reset engine with those parameters. -/
def start : State := State.resetWith tiny

/-- The engine with a stream of n bits, a version and the pointer past the first mode indicator. -/
def streamed (bytes : List Byte) (n : Nat) (version : BitVec 6) : State :=
  { start with data := Memory.writeList [] 0 bytes, databits := BitVec.ofNat 32 n, version := version, bitptr := 4 }

/-- The engine with a block in `CW`. -/
def blocked (bytes : List Byte) : State := { start with cw := Memory.writeList [] 0 bytes }

/-- A part of the state an outcome leaves. -/
def after {α : Type} (o : Result) (f : State → α) : Option α :=
  match o with
  | .next s => some (f s)
  | .fault _ => none
  | .refused _ => none

/-! ### One or two tests an instruction -/

/-- V8.5. -/
theorem test_nop : after (exec .nop { start with err := 3, statusErrs := true, statusIll := true })
    (fun s => (s.err, s.statusWord)) = some (0, 0x8) := by decide
/-- V2.4. -/
theorem test_gfexp : after (exec (.gfexp .gf256 25) start) (·.res) = some 3 := by decide
theorem test_gfexp_reduces : after (exec (.gfexp .gf16 255) start) (·.res) = some 1 := by decide
/-- V2.5. -/
theorem test_gflog : after (exec (.gflog .gf16 0x1B) start) (·.res) = some 7 := by decide
theorem test_gflog_zero : after (exec (.gflog .gf16 0x10) start) (fun s => (s.statusWord, s.res)) = some (0xC, 0) := by decide
/-- V2.6. -/
theorem test_peval : after (exec (.peval .gf256 4 0x8E) { start with poly := Memory.writeList [] 32 [1, 2, 3] })
    (·.res) = some 0xC9 := by decide +kernel
theorem test_peval_at_zero : after (exec (.peval .gf256 4 0) { start with poly := Memory.writeList [] 32 [1, 2, 3] })
    (·.res) = some 0 := by decide +kernel
/-- V2.8. -/
theorem test_padd : after (exec (.padd .gf256 4 5 0x1D 3)
      { start with poly := Memory.writeList [(32, 1)] 40 [1, 2, 3] }) (fun s => s.getPoly 4) =
    some [1, 0, 0, 0x1D, 0x3A, 0x27, 0, 0] := by decide +kernel
/-- V2.9 (d): the same register as source and destination. -/
theorem test_padd_same_register : after (exec (.padd .gf256 4 4 2 1)
      { start with poly := Memory.writeList [] 32 [1, 2, 3] }) (fun s => s.getPoly 4) =
    some [1, 0, 7, 6, 0, 0, 0, 0] := by decide +kernel
/-- V4.3. -/
theorem test_bm : after (exec (.bm .gf16 6) { start with poly := Memory.writeList [] 0 [8, 12, 10, 15, 1, 8] })
    (fun s => s.getPoly 1) = some [1, 8, 0, 0, 0, 0, 0, 0] := by decide +kernel
/-- V4.3. -/
theorem test_fsyn : after (exec .fsyn { start with fmt := 0x14D4 }) (fun s => (s.statusZ, s.getPoly 0)) =
    some (false, [8, 12, 10, 15, 1, 8, 0, 0]) := by decide +kernel
/-- V4.2. -/
theorem test_fcorr_three_errors : after (exec .fcorr { start with fmtraw := 0x604F })
    (fun s => (s.fmt, s.ecclvl, s.mask, s.err, s.statusWord)) = some (0x14DC, 0, 5, 0, 0) := by decide +kernel
/-- V4.5. -/
theorem test_fcorr_fails : after (exec .fcorr { start with fmtraw := 0x40C1 })
    (fun s => (s.fmt, s.mask, s.err, s.statusWord)) = some (0x14D3, 0, 3, 0x8) := by decide +kernel
/-- V5.3. -/
theorem test_bsyn : after (exec (.bsyn 5 2) (blocked [0x92, 0x34, 0x56, 0x98, 0xE8]))
    (fun s => (s.statusZ, s.getPoly 0)) = some (false, [0x80, 0xE8, 0, 0, 0, 0, 0, 0]) := by decide +kernel
/-- V5.7. -/
theorem test_eevp : after (exec (.eevp 2) { start with poly := Memory.writeList [(0, 0x80), (1, 0xE8)] 8 [1, 0x10] })
    (fun s => (s.polyByte 2 0, s.polyByte 2 1, s.polyByte 3 0, s.polyByte 3 1)) = some (0xE8, 0, 0x10, 0) := by
  decide +kernel
/-- V5.3. -/
theorem test_bcorr_one_error : after (exec (.bcorr 5 3) (blocked [0x92, 0x34, 0x56, 0x98, 0xE8]))
    (fun s => (s.err, s.cw)) = some (0, [(0, 0x12), (1, 0x34), (2, 0x56), (3, 0x98), (4, 0xE8)]) := by decide +kernel
/-- V5.5: a failed block keeps the attempted correction. -/
theorem test_bcorr_fails : after (exec (.bcorr 8 4) (blocked [0x12, 0xA7, 0x56, 0x78, 0x1B, 0x56, 0x3F, 0x2A]))
    (fun s => (s.err, s.cw.read 7, s.getPoly 1)) = some (4, 0xE6, [1, 0x7A, 0x7B, 0, 0, 0, 0, 0]) := by decide +kernel
/-- V7.1. -/
theorem test_vers : after (exec (.vers 177) start) (fun s => (s.version, s.err)) = some (40, 0) := by decide
theorem test_vers_negative : after (exec (.vers 13) { start with version := 2 }) (fun s => (s.version, s.err)) =
    some (0, 2) := by decide
/-- V7.3. -/
theorem test_take_32 : after (exec (.take 32) (streamed [0x12, 0x34, 0x56, 0x78, 0x9A] 40 1))
    (fun s => (s.res, s.bitptr)) = some (0x23456789, 36) := by decide +kernel
/-- R123: an underflow leaves RES and BITPTR. -/
theorem test_take_underflow : after (exec (.take 13) (streamed [0x10, 0x20] 16 1))
    (fun s => (s.err, s.res, s.bitptr)) = some (6, 0, 4) := by decide +kernel
/-- V6.8: exactly full, the last digit gives way to the nul. -/
theorem test_payload_exactly_full :
    after (exec .payload (streamed [0x10, 0x20, 0x0C, 0x56, 0x61, 0x80] 45 1))
      (fun s => (s.err, s.plen, s.bitptr, s.payload.map Prod.snd)) =
    some (0, 7, 45, [0x30, 0x31, 0x32, 0x33, 0x34, 0x35, 0x36]) := by
  decide +kernel
/-- V6.8c: an overflow in the second segment. -/
theorem test_payload_overflow :
    after (exec .payload (streamed [0x40, 0x53, 0x13, 0x23, 0x33, 0x43, 0x51, 0x01, 0x07, 0xB4] 80 1))
      (fun s => (s.err, s.plen, s.dtype, s.bitptr)) = some (5, 5, 4, 66) := by decide +kernel
/-- V6.10: 1023 emits "023". -/
theorem test_segNum_out_of_range : after (exec .segNum (streamed [0x10, 0x0F, 0xFF] 24 1))
    (fun s => (s.payload.read 0, s.payload.read 1, s.payload.read 2, s.bitptr)) = some (0x30, 0x32, 0x33, 24) := by
  decide +kernel
/-- V6.10: 2047 and 63 emit "0MI". -/
theorem test_segAlnum_out_of_range : after (exec .segAlnum (streamed [0x20, 0x1F, 0xFF, 0xFC] 30 1))
    (fun s => s.payload) = some [(0, 0x30), (1, 0x4D), (2, 0x49)] := by decide +kernel
/-- V6.3. -/
theorem test_segByte : after (exec .segByte (streamed [0x40, 0x24, 0x86, 0x90] 32 1))
    (fun s => (s.payload, s.plen, s.dtype, s.bitptr)) = some ([(0, 0x48), (1, 0x69)], 2, 4, 28) := by decide +kernel
/-- R135 on an error exit: a count field cut short after an exactly full buffer, whose last byte gives way to the nul. -/
theorem test_segByte_full_buffer_trims :
    after (exec .segByte { streamed [0x40] 8 1 with plen := 8, payload := [(6, 0x41), (7, 0x42)] })
      (fun s => (s.err, s.plen, s.payload, s.bitptr)) = some (6, 7, [(6, 0x41)], 4) := by decide +kernel
/-- V6.4. -/
theorem test_segKanji : after (exec .segKanji (streamed [0x80, 0x26, 0xCF, 0xEA, 0xA8, 0x00] 42 1))
    (fun s => (s.payload, s.plen, s.dtype, s.bitptr)) =
    some ([(0, 0x93), (1, 0x5F), (2, 0xE4), (3, 0xAA)], 4, 8, 38) := by decide +kernel
/-- V6.5b: the 24-bit form, and the same one bit short. -/
theorem test_segEci : after (exec .segEci (streamed [0x7C, 0x10, 0x20, 0x30] 28 1)) (fun s => (s.eci, s.bitptr)) =
    some (0xC10203, 28) := by decide +kernel
theorem test_segEci_short : after (exec .segEci (streamed [0x7C, 0x10, 0x20, 0x20] 27 1))
    (fun s => (s.eci, s.bitptr, s.err)) = some (0, 12, 6) := by decide +kernel
/-- V6.12. -/
theorem test_segEnd : after (exec (.segEnd 3) (streamed [0x34, 0x01, 0x41] 24 1))
    (fun s => (s.err, s.bitptr, s.plen)) = some (0, 4, 0) := by decide +kernel

/-! ### Steps -/

/-- A command placed for fetching runs as the first step. -/
theorem test_step_runs_fetched_command :
    after (step (State.reset.withFetchWord 32 0x00150020)) (fun s => (s.version, s.response)) = some (1, some .done) := by
  decide +kernel
/-- A segment placed for fetching is run by that step's PAYLOAD; with zero bits after it ECI reads the designator 0 and the
next indicator ends the message: 4 + 8 + 4 bits. -/
theorem test_step_runs_fetched_segment :
    after (step (State.reset.withFetchWord 8 7)) (fun s => (s.err, s.bitptr)) = some (0, 16) := by decide +kernel
/-- V8.6: an 8-bit write to CMD is a bus error and issues no command. -/
theorem test_bus_error : step { start with inbox := [.write 0 .w8 0x22] } =
    .next { start with response := some .busError } := by rfl
/-- V8.2, V8.6: the last polynomial byte, and the first above it. -/
theorem test_poly_space_end : (State.reset.hostRead 0x2FF .w8).response = some (.value 0) ∧
    (State.reset.hostRead 0x300 .w8).response = some .busError := by decide
/-- V8.5: STATUS is write-one-to-clear. -/
theorem test_status_clear : (({ start with statusIll := true, statusErrs := true } : State).writeStatus 0x8).statusWord = 4 := by
  decide
/-- R137: the document's scenario as a `Data` record. -/
theorem test_scenario_record :
    after (exec .payload { State.reset with
        data := Memory.writeList [] 0 [0x10, 0x20, 0x0C, 0x56, 0x61, 0x80], databits := 45, version := 1 })
      State.dataRecord =
    some { version := 1, eccLevel := 0, maskPattern := 0, dataType := 1, eci := 0,
           payload := [0x30, 0x31, 0x32, 0x33, 0x34, 0x35, 0x36, 0x37] } := by decide +kernel

/-! ### Witnesses: the hypotheses of each statement are met -/

theorem witness_LogIsTheUniqueExponent :
    ∀ f : GField, ∀ a ∈ [(1 : Byte), BitVec.ofNat 8 (GField.p f)], 1 ≤ a.toNat ∧ a.toNat ≤ GField.p f := by
  intro f; cases f <;> decide
theorem witness_field_elements : IsElem .gf256 0xFF ∧ IsElem .gf256 0 ∧ IsElem .gf16 0xF ∧ IsElem .gf16 0 := by
  refine ⟨trivial, trivial, ?_, ?_⟩ <;> unfold IsElem <;> decide
theorem witness_field_logs : gfLog .gf16 0xF = some 12 ∧ gfLog .gf256 2 = some 1 := by decide
theorem witness_GflogLoadsLogarithm : elem .gf16 0x10 = 0 ∧ elem .gf16 0x1B ≠ 0 ∧ elem .gf256 0 = 0 ∧ elem .gf256 1 ≠ 0 := by
  decide
theorem witness_BmWritesLocator : (8 : Byte).toNat ≤ start.cfg.maxPoly ∧ start.cfg.maxPoly < (9 : Byte).toNat := by decide
theorem witness_BmIsTotal :
    (∀ i < 6, elem .gf16 (coeff [0x10, 0, 0, 0, 0, 0, 3] i) = 0) ∧
    (∀ i < 6, elem .gf16 (coeff [0x18, 12] i) = elem .gf16 (coeff [8, 12] i)) ∧
    (0 : Byte).toNat ≤ start.cfg.maxPoly := by decide +kernel
theorem witness_BmScratchFacts : 0 < start.cfg.maxPoly := by decide
theorem witness_BmLocatorGeneratesSyndromes :
    (bmRun .gf16 8 [8, 12, 10, 15, 1, 8] 6).len ≤ 1 ∧ (bmRun .gf16 8 [8, 12, 10, 15, 1, 8] 6).len ≤ 5 ∧ 6 ≤ 8 := by
  decide +kernel
theorem witness_FsynWritesFormatSyndromes : 6 ≤ start.cfg.maxPoly := by decide
/-- V4.1, V4.2, V4.5: a clean word, one that corrects, one that does not. -/
theorem witness_FcorrCorrectsOrRaises :
    formatClean (0x40CE#15 ^^^ 0x5412#15) = true ∧
    formatClean (0x604F#15 ^^^ 0x5412#15) = false ∧
    formatClean (flipLocated 8 (bm .gf16 8 (formatSyndromes 8 (0x604F#15 ^^^ 0x5412#15)) 6) (0x604F#15 ^^^ 0x5412#15)) = true ∧
    formatClean (0x40C1#15 ^^^ 0x5412#15) = false ∧
    formatClean (flipLocated 8 (bm .gf16 8 (formatSyndromes 8 (0x40C1#15 ^^^ 0x5412#15)) 6) (0x40C1#15 ^^^ 0x5412#15)) = false := by
  decide +kernel
/-- V4.2: bits 0, 7 and 13 flipped. -/
theorem witness_FcorrRecoversUpToThreeBitErrors :
    start.cfg.wf ∧ formatClean 0x14DC = true ∧ (List.range 15).countP (fun i => (0x2081#15).getLsbD i) = 3 ∧
    (0x604F : BitVec 15) = 0x14DC ^^^ 0x2081 ^^^ 0x5412#15 := by decide +kernel
theorem witness_BsynWritesBlockSyndromes :
    1 ≤ (1 : Byte).toNat ∧ (8 : Byte).toNat ≤ start.cfg.maxPoly ∧ start.cfg.maxPoly < (9 : Byte).toNat := by decide
theorem witness_EevpWritesEvaluator :
    1 ≤ (1 : Byte).toNat ∧ (1 : Byte).toNat ≤ start.cfg.maxPoly ∧ (8 : Byte).toNat ≤ start.cfg.maxPoly := by decide
/-- V5.3 clean, V5.3 corrected, V5.5 failed. -/
theorem witness_BcorrCorrectsOrRaises :
    (3 : Byte).toNat < (5 : Byte).toNat ∧ (5 : Byte).toNat - (3 : Byte).toNat ≤ start.cfg.maxPoly ∧
    (255 : Byte).toNat - (247 : Byte).toNat ≤ start.cfg.maxPoly ∧
    blockClean (blocked [0x12, 0x34, 0x56, 0x98, 0xE8]).cw 5 2 = true ∧
    blockClean (blocked [0x92, 0x34, 0x56, 0x98, 0xE8]).cw 5 2 = false ∧
    blockClean (blocked [0x12, 0xA7, 0x56, 0x78, 0x1B, 0x56, 0x3F, 0x2A]).cw 8 4 = false := by decide +kernel
theorem witness_BcorrRestoresOneWrongByte :
    start.cfg.wf ∧ (3 : Byte).toNat + 2 ≤ (5 : Byte).toNat ∧ 0 < (5 : Byte).toNat ∧
    blockClean (blocked [0x12, 0x34, 0x56, 0x98, 0xE8]).cw 5 2 = true ∧
    (blocked [0x92, 0x34, 0x56, 0x98, 0xE8]).cw = (blocked [0x12, 0x34, 0x56, 0x98, 0xE8]).cw.write 0 (0x12 ^^^ 0x80) := by
  decide +kernel
theorem witness_BcorrRestoresUpToCapacity :
    2 * (List.range 5).countP (fun a => (blocked [0x92, 0x34, 0x56, 0x98, 0xE8]).cw.read a !=
      (blocked [0x12, 0x34, 0x56, 0x98, 0xE8]).cw.read a) ≤ 5 - 3 := by decide +kernel
theorem witness_VersSetsVersionOrRaises :
    (22 : Byte).toNat % 4 ≠ 1 ∧ ((17 : Byte).toNat % 4 = 1 ∧ (17 : Byte).toNat < 21) ∧
    ((181 : Byte).toNat % 4 = 1 ∧ 177 < (181 : Byte).toNat) ∧
    (21 : Byte).toNat = 4 * 1 + 17 ∧ (177 : Byte).toNat = 4 * 40 + 17 := by decide
theorem witness_TakeReadsTheNextBits :
    let s := streamed [0x12, 0x34, 0x56, 0x78, 0x9A] 36 1
    32 ≤ left s ∧ left s < 33 ∧ s.databits.toNat ≤ 8 * s.cfg.dataCap ∧
    left (streamed [] 35 1) < 32 ∧ 8 * start.cfg.dataCap < (129 : Word).toNat ∧ (128 : Word).toNat ≤ 8 * start.cfg.dataCap := by
  decide
theorem witness_PayloadRunsTheStreamToItsEnd :
    let s := streamed [0x10, 0x20] 128 1
    s.databits.toNat ≤ 8 * s.cfg.dataCap ∧ s.version ≠ 0 ∧ start.version = 0 ∧ 0 < s.cfg.payloadCap ∧
    8 * s.cfg.dataCap < (streamed [] 129 1).databits.toNat := by decide
theorem witness_PayloadAlwaysNulTerminates : start.cfg.wf ∧ start.databits.toNat ≤ 8 * start.cfg.dataCap := by decide
/-- Two engines that agree on the stream and on little else. -/
theorem witness_PayloadIsAPureFunction :
    let s := streamed [0x10, 0x20] 16 1
    let s' : State := { s with bitptr := 9, plen := 3, eci := 5, payload := [(0, 1), (7, 2)], statusErrs := true, res := 6 }
    s.cfg = s'.cfg ∧ s.version = s'.version ∧ s.databits = s'.databits ∧ s.data = s'.data ∧ s ≠ s' ∧ s.cfg.wf ∧
    s.databits.toNat ≤ 8 * s.cfg.dataCap := by decide
/-- V6.8's segment: eight digits, the buffer exactly full. -/
theorem witness_SegNumEmitsDigits :
    let s := streamed [0x10, 0x20, 0x0C, 0x56, 0x61, 0x80] 41 1
    countWidth .numeric (tier s) = 10 ∧ bits s s.bitptr.toNat 10 = 8 ∧ 8 % 3 = 2 ∧
    s.plen.toNat + 8 ≤ s.cfg.payloadCap ∧ s.cfg.payloadCap ≤ 32768 ∧ 10 + 10 * (8 / 3) + 7 ≤ left s := by decide +kernel
theorem witness_SegAlnumEmitsCharacters :
    let s := streamed [0x20, 0x1F, 0xFF, 0xFC] 30 1
    countWidth .alphanumeric (tier s) = 9 ∧ bits s s.bitptr.toNat 9 = 3 ∧ s.plen.toNat + 3 ≤ s.cfg.payloadCap ∧
    9 + 11 * (3 / 2) + 6 * (3 % 2) ≤ left s := by decide +kernel
theorem witness_SegByteCopiesBytes :
    let s := streamed [0x40, 0x24, 0x86, 0x90] 28 1
    countWidth .byte (tier s) = 8 ∧ bits s s.bitptr.toNat 8 = 2 ∧ s.plen.toNat + 2 ≤ s.cfg.payloadCap ∧
    8 + 8 * 2 ≤ left s := by decide +kernel
theorem witness_SegKanjiEmitsShiftJis :
    let s := streamed [0x80, 0x26, 0xCF, 0xEA, 0xA8, 0x00] 42 1
    countWidth .kanji (tier s) = 8 ∧ bits s s.bitptr.toNat 8 = 2 ∧ s.plen.toNat + 2 * 2 ≤ s.cfg.payloadCap ∧
    8 + 13 * 2 ≤ left s := by decide +kernel
/-- V6.5, V6.5b, and each cut one bit short. -/
theorem witness_SegEciStoresDesignator :
    (16 ≤ left (streamed [0x78, 0x10, 0x20] 20 1) ∧ bits (streamed [0x78, 0x10, 0x20] 20 1) 4 8 / 64 = 2) ∧
    (24 ≤ left (streamed [0x7C, 0x10, 0x20, 0x30] 28 1) ∧ bits (streamed [0x7C, 0x10, 0x20, 0x30] 28 1) 4 8 / 32 = 6) ∧
    (8 ≤ left (streamed [0x7E, 0x10] 12 1) ∧ bits (streamed [0x7E, 0x10] 12 1) 4 8 / 64 = 3 ∧
      bits (streamed [0x7E, 0x10] 12 1) 4 8 / 32 = 7) ∧
    left (streamed [0x7E, 0x10] 11 1) < 8 ∧
    (left (streamed [0x78, 0x10, 0x20] 19 1) < 16 ∧ bits (streamed [0x78, 0x10, 0x20] 19 1) 4 8 / 64 = 2) ∧
    (left (streamed [0x7C, 0x10, 0x20, 0x30] 27 1) < 24 ∧ bits (streamed [0x7C, 0x10, 0x20, 0x30] 27 1) 4 8 / 32 = 6) ∧
    0 < start.cfg.payloadCap ∧ start.plen.toNat ≤ start.cfg.payloadCap ∧
    ({ start with plen := 8 } : State).plen.toNat = start.cfg.payloadCap := by decide +kernel
theorem witness_SegEndTerminatesThePayload :
    2 ≤ start.cfg.payloadCap ∧ start.cfg.payloadCap ≤ 32768 ∧
    ({ start with plen := 7 } : State).plen.toNat < start.cfg.payloadCap ∧
    ({ start with plen := 8 } : State).plen.toNat = start.cfg.payloadCap := by decide
/-- V6.7 (count cut short) and V6.8d (five Kanji codes for eight bytes). -/
theorem witness_CountFieldErrors :
    left (streamed [0x10, 0x20] 13 1) < countWidth .numeric (tier (streamed [0x10, 0x20] 13 1)) ∧
    countWidth .kanji (tier (streamed [0x80, 0x50] 12 1)) ≤ left (streamed [0x80, 0x50] 12 1) ∧
    (streamed [0x80, 0x50] 12 1).cfg.payloadCap <
      (streamed [0x80, 0x50] 12 1).plen.toNat + declared .kanji (bits (streamed [0x80, 0x50] 12 1) 4 8) := by
  decide +kernel
/-- The same two with the buffer exactly full: a byte count cut short, and one byte more declared. -/
theorem witness_CountFieldErrors_full_buffer :
    let s : State := { streamed [0x40, 0x10] 11 1 with plen := 8 }
    let s' : State := { streamed [0x40, 0x10] 12 1 with plen := 8 }
    s.plen.toNat = s.cfg.payloadCap ∧ 0 < s.cfg.payloadCap ∧ left s < countWidth .byte (tier s) ∧
    countWidth .byte (tier s') ≤ left s' ∧ s'.cfg.payloadCap < s'.plen.toNat + declared .byte (bits s' 4 8) := by
  decide +kernel
/-- V6.8's eight digits, one bit short in the remainder group (two whole groups) and in the second full one (one). -/
theorem witness_SegNumUnderflow :
    (let s := streamed [0x10, 0x20, 0x0C, 0x56, 0x61, 0x80] 40 1
     countWidth .numeric (tier s) = 10 ∧ 10 ≤ left s ∧ bits s s.bitptr.toNat 10 = 8 ∧
     s.plen.toNat + 8 ≤ s.cfg.payloadCap ∧ left s < 10 + 10 * (8 / 3) + 7 ∧ min (8 / 3) ((left s - 10) / 10) = 2) ∧
    (let s := streamed [0x10, 0x20, 0x0C, 0x56, 0x61, 0x80] 33 1
     left s < 10 + 10 * (8 / 3) + 7 ∧ min (8 / 3) ((left s - 10) / 10) = 1) := by decide +kernel
/-- V6.10's three characters, one bit short in the single (one whole pair) and in the pair (none). -/
theorem witness_SegAlnumUnderflow :
    (let s := streamed [0x20, 0x1F, 0xFF, 0xFC] 29 1
     countWidth .alphanumeric (tier s) = 9 ∧ 9 ≤ left s ∧ bits s s.bitptr.toNat 9 = 3 ∧
     s.plen.toNat + 3 ≤ s.cfg.payloadCap ∧ left s < 9 + 11 * (3 / 2) + 6 * (3 % 2) ∧
     min (3 / 2) ((left s - 9) / 11) = 1) ∧
    (let s := streamed [0x20, 0x1F, 0xFF, 0xFC] 23 1
     left s < 9 + 11 * (3 / 2) + 6 * (3 % 2) ∧ min (3 / 2) ((left s - 9) / 11) = 0) := by decide +kernel
/-- V6.4's two codes, the second one bit short. -/
theorem witness_SegKanjiUnderflow :
    let s := streamed [0x80, 0x26, 0xCF, 0xEA, 0xA8, 0x00] 37 1
    countWidth .kanji (tier s) = 8 ∧ 8 ≤ left s ∧ bits s s.bitptr.toNat 8 = 2 ∧
    s.plen.toNat + 2 * 2 ≤ s.cfg.payloadCap ∧ left s < 8 + 13 * 2 ∧ (left s - 8) / 13 = 1 := by decide +kernel
/-- Two bytes declared, one whole byte and seven bits there. -/
theorem witness_SegByteUnderflow :
    let s := streamed [0x40, 0x24, 0x86, 0x90] 27 1
    countWidth .byte (tier s) = 8 ∧ 8 ≤ left s ∧ bits s s.bitptr.toNat 8 = 2 ∧ s.plen.toNat + 2 ≤ s.cfg.payloadCap ∧
    left s < 8 + 8 * 2 ∧ (left s - 8) / 8 = 1 := by decide +kernel
theorem witness_DecodeInvertsEncode :
    (Instr.padd .gf16 7 3 0xA5 0xFF).wellFormed = true ∧ (Instr.segEnd 15).wellFormed = true := by decide
theorem witness_EncodeInvertsDecode : decode (.cmd32 0xFFA53F04) = .ok (.padd .gf16 7 3 0xA5 0xFF) := by decide
theorem witness_DecoderIsMaskAndMatch : (0x0D1A0015 : Word) &&& Opcode.bcorr.mask = Opcode.bcorr.pattern := by decide
/-- An engine whose next access issues PAYLOAD. -/
def issuing : State := { streamed [0x40, 0x14, 0x10] 20 1 with inbox := [.write 0 .w32 0x22] }
theorem witness_StepRunsTheDecodedInstruction :
    decode (.cmd32 0x22) = .ok .payload ∧ issuing.inbox = .write 0x0000 .w32 0x22 :: [] := by decide
theorem witness_IllegalCommandsOnlySetFlags :
    decode (.cmd32 0x00000005) = .error (.reservedOpcode 5) ∧
    illegalOperands start (.bcorr 5 5) ∧ ¬ illegalOperands start (.bcorr 5 4) ∧ isCommand (.bcorr 5 4) = true := by
  refine ⟨by decide, Or.inr (Or.inl (by decide)), ?_, rfl⟩
  simp [illegalOperands, start, State.resetWith, tiny]
theorem witness_OnlyLegalAccesses_reads :
    LegalRead start.cfg 0x34 .w32 ∧ LegalRead start.cfg 0x8007 .w8 ∧ ¬ LegalRead start.cfg 0x8008 .w8 := by
  refine ⟨Or.inl ?_, Or.inr ⟨rfl, Or.inr ?_⟩, ?_⟩
  · unfold registerOffset; decide
  · decide
  · unfold LegalRead writableByte registerOffset; simp [start, State.resetWith, tiny]
theorem witness_OnlyLegalAccesses_writes :
    LegalWrite start.cfg 0x00 .w32 ∧ LegalWrite start.cfg 0x4FF .w8 ∧ ¬ LegalWrite start.cfg 0x8000 .w8 ∧
    ¬ LegalWrite start.cfg 0x36 .w32 := by
  refine ⟨Or.inl ?_, Or.inr ⟨rfl, ?_⟩, ?_, ?_⟩
  · unfold registerOffset; decide
  · unfold writableByte; decide
  · unfold LegalWrite writableByte registerOffset; simp [start, State.resetWith, tiny]
  · unfold LegalWrite writableByte registerOffset; simp [start, State.resetWith, tiny]
theorem witness_HostByteReadsBack : start.cfg.wf ∧ writableByte start.cfg 0x13F ∧ writableByte start.cfg 0x400 := by
  unfold writableByte
  decide
/-- A write of 8 to STATUS clears a set ERRS. -/
theorem witness_ErrsIsSticky :
    after (step { start with statusErrs := true, inbox := [.write 0x0004 .w32 8] }) (·.statusErrs) = some false := by decide
/-- A state of the invariant that is not reset, and whose step is a command. -/
theorem witness_StepKeepsInvariant :
    ({ issuing with plen := 1, payload := [(0, 0x41)], dtype := 4 } : State).Inv ∧
    after (step { issuing with plen := 1, payload := [(0, 0x41)], dtype := 4 }) (fun s => (s.plen, s.payload)) =
      some (1, [(0, 0x41)]) := by
  refine ⟨⟨?_, ?_, ?_, ?_, ?_, ?_, ?_, ?_, ?_, ?_, ?_, ?_, ?_, ?_⟩, ?_⟩ <;> decide +kernel
theorem witness_InstructionsWriteOnlyTheirOutputs : exec .nop start = .next start := by rfl
/-- Its clauses' premises: an illegal command, a legal one, an exactly full buffer. -/
theorem witness_InstructionsWriteOnlyTheirOutputs_clauses :
    illegalOperands start (.gflog .gf256 0) ∧ ¬ illegalOperands start .nop ∧ start.cfg.wf ∧
    ({ start with plen := 8 } : State).plen.toNat ≤ start.cfg.payloadCap := by
  refine ⟨rfl, id, by decide, by decide⟩
theorem witness_ResetIsAllZero : ∃ c : Config, start = State.resetWith c := ⟨tiny, rfl⟩
/-- The defaults, and the least and the greatest parameters. -/
theorem witness_ResetSatisfiesInvariant :
    Config.standard.wf ∧ ({ maxPoly := 8, payloadCap := 2, dataCap := 1, base := 0 } : Config).wf ∧
    ({ maxPoly := 96, payloadCap := 32768, dataCap := 16384, base := 65536 } : Config).wf := by decide
theorem witness_EveryStepAnswers : start.inbox = [] := by rfl
theorem witness_BaseChangesNoBehaviour : step start = .next start := by rfl

end Sys2Proof.Tests
end

section
/-!
What one host access can do, said once (20_memory.md R44 to R46, 60_exceptions.md R159), and the step that issues a command.
-/

namespace Sys2Proof.Machine

open Sys2Proof.Stmt

/-- The offset of a register (10_state.md section 1). -/
def RegName.offset : RegName → Nat
  | .cmd => 0x00
  | .status => 0x04
  | .err => 0x08
  | .res => 0x0C
  | .fmtraw => 0x10
  | .fmt => 0x14
  | .ecclvl => 0x18
  | .mask => 0x1C
  | .version => 0x20
  | .databits => 0x24
  | .bitptr => 0x28
  | .plen => 0x2C
  | .dtype => 0x30
  | .eci => 0x34

theorem eq_offset_of_regAt {off : Nat} {r : RegName} (h : regAt off = some r) : off = r.offset := by
  simp only [regAt, ite_eq_iff, Option.some.injEq, reduceCtorEq, and_false, or_false] at h
  cases r <;> simp only [reduceCtorEq, and_false, and_true, false_or, or_false] at h <;>
    simp only [RegName.offset, h]

/-- A register is at one offset of the window only. -/
theorem eq_of_regAt {off : BitVec 16} {r : RegName} (h : regAt off.toNat = some r) : off = BitVec.ofNat 16 r.offset := by
  rw [← eq_offset_of_regAt h, BitVec.ofNat_toNat, BitVec.setWidth_eq]

/-- A 32-bit transfer reaches a register, and nothing else does (R44). -/
theorem target_eq_reg {c : Config} {off : BitVec 16} {w : AccessWidth} {r : RegName} :
    target c off w = some (.reg r) ↔ w = .w32 ∧ regAt off.toNat = some r := by
  cases w with
  | w8 => unfold target byteAt; split_ifs <;> simp
  | w16 => simp [target]
  | w32 => simp [target]

/-- The index a byte target carries lies inside its space. -/
def Target.inside (c : Config) : Target → Prop
  | .reg _ => True
  | .poly i => i < 8 * c.maxPoly
  | .cw i => i < 256
  | .data i => i < c.dataCap
  | .payload i => i < c.payloadCap

theorem byteAt_inside {c : Config} {off : Nat} {t : Target} (h : byteAt c off = some t) : t.inside c := by
  unfold byteAt at h
  split_ifs at h <;> cases h <;> simp only [Target.inside] <;> omega

theorem target_inside {c : Config} {off : BitVec 16} {w : AccessWidth} {t : Target} (h : target c off w = some t) :
    t.inside c := by
  cases w with
  | w8 => exact byteAt_inside h
  | w16 => cases h
  | w32 =>
    obtain ⟨r, -, rfl⟩ := Option.map_eq_some_iff.1 h
    trivial

/-- What an access can ask of the engine (R44 to R46, R159). -/
inductive AccessEffect (s : State) : HostAccess → WriteEffect → Prop
  | answered (off : BitVec 16) (w : AccessWidth) (r : BusResponse) :
      AccessEffect s (.read off w) (.finished (s.respond r))
  | refused (off : BitVec 16) (w : AccessWidth) (v : Word) : AccessEffect s (.write off w v) (.finished s.busError)
  | command (v : Word) : AccessEffect s (.write 0 .w32 v) (.command v (s.respond .done))
  | register (off : BitVec 16) (v : Word) (r : RegName) (hoff : regAt off.toNat = some r) :
      AccessEffect s (.write off .w32 v) (.finished ((s.writeReg v r).respond .done))
  | poly (off : BitVec 16) (w : AccessWidth) (v : Word) (i : Nat) (hi : i < 8 * s.cfg.maxPoly) :
      AccessEffect s (.write off w v) (.finished (({ s with poly := s.poly.write i (v.setWidth 8) } : State).respond .done))
  | cw (off : BitVec 16) (w : AccessWidth) (v : Word) (i : Nat) (hi : i < 256) :
      AccessEffect s (.write off w v) (.finished (({ s with cw := s.cw.write i (v.setWidth 8) } : State).respond .done))
  | data (off : BitVec 16) (w : AccessWidth) (v : Word) (i : Nat) (hi : i < s.cfg.dataCap) :
      AccessEffect s (.write off w v) (.finished (({ s with data := s.data.write i (v.setWidth 8) } : State).respond .done))

theorem hostRead_effect (s : State) (off : BitVec 16) (w : AccessWidth) :
    AccessEffect s (.read off w) (.finished (s.hostRead off w)) := by
  unfold State.hostRead
  split
  · exact .answered off w _
  · exact .answered off w .busError

theorem hostWrite_effect (s : State) (off : BitVec 16) (w : AccessWidth) (v : Word) :
    AccessEffect s (.write off w v) (s.hostWrite off w v) := by
  unfold State.hostWrite
  split
  next r h =>
    obtain ⟨rfl, hr⟩ := target_eq_reg.1 h
    split
    next hcmd =>
      subst hcmd
      obtain rfl : off = 0 := eq_of_regAt hr
      exact .command v
    next => exact .register off v r hr
  next i h => exact .poly off w v i (target_inside h)
  next i h => exact .cw off w v i (target_inside h)
  next i h => exact .data off w v i (target_inside h)
  next => exact .refused off w v
  next => exact .refused off w v

/-- The whole of what an access can do. -/
theorem access_effect (s : State) (a : HostAccess) : AccessEffect s a (s.access a) := by
  cases a with
  | read off w => exact hostRead_effect s off w
  | write off w v => exact hostWrite_effect s off w v

/-- The one access that runs an instruction (10_state.md R11). -/
theorem access_write_cmd (s : State) (v : Word) : s.access (.write 0 .w32 v) = .command v (s.respond .done) := rfl

/-- Settles O46: the write to `CMD` is popped, answered, and its word's instruction run. -/
theorem stepRunsTheDecodedInstruction : Obligations.StepRunsTheDecodedInstruction := by
  intro s w i rest hdec hin
  have hpop : s.popAccess.respond .done = { s with inbox := rest, response := some .done } := by
    simp [State.popAccess, State.respond, hin]
  have hstep : step s = runEffect (s.popAccess.access (.write 0 .w32 w)) := by simp only [step, hin]
  rw [hstep, access_write_cmd, runEffect, runWord, hdec, hpop]

end Sys2Proof.Machine
end

section
/-!
How a command ends (10_state.md R12, 60_exceptions.md R158, R160): refused, or with success or a raised error after its
work. The work of an arm keeps the invariant and leaves ERRS to that end.
-/

namespace Sys2Proof.Machine

open Sys2Proof.Stmt

/-! ### Operands: the model's tests are the table of R158 -/

theorem elem_toNat_le (f : GField) (a : Byte) : (elem f a).toNat ≤ GField.p f := by
  cases f with
  | gf256 => exact Nat.le_of_lt_succ a.isLt
  | gf16 =>
    rw [elem, BitVec.toNat_and]
    exact Nat.and_le_right

/-- The logarithm of an operand is missing exactly at the element 0 (R83, R91). -/
theorem gfLog_elem_eq_none {f : GField} {a : Byte} : gfLog f (elem f a) = none ↔ elem f a = 0 := by
  have hle := elem_toNat_le f a
  have hzero : elem f a = 0 ↔ (elem f a).toNat = 0 := BitVec.toNat_eq (y := 0#8)
  rw [hzero]
  unfold gfLog
  split
  next h => cases f <;> simp <;> omega
  next h => simp; omega

theorem legalOperands_iff (s : State) (i : Instr) : s.legalOperands i = true ↔ ¬ illegalOperands s i := by
  cases i <;>
    simp [State.legalOperands, illegalOperands, gflogLegal, bmLegal, bsynLegal, eevpLegal, bcorrLegal, State.takeLegal,
      State.bitSourceLegal, BitVec.toNat_eq, and_assoc]

theorem illegalOperands_of_not_legal {s : State} {i : Instr} (h : ¬ s.legalOperands i = true) : illegalOperands s i :=
  not_not.1 fun hl => h ((legalOperands_iff s i).2 hl)

/-! ### The invariant under the endings -/

theorem ErrKind.code_ne_seven {k : ErrKind} (h : k ≠ .unknownDataType) : k.code ≠ 7 := by
  cases k with
  | unknownDataType => exact absurd rfl h
  | _ => decide

theorem State.Inv.succeed {s : State} (h : s.Inv) : s.succeed.Inv := { h with errKind := by simp }

theorem State.Inv.raise {s : State} (h : s.Inv) {k : ErrKind} (hk : k ≠ .unknownDataType) : (s.raise k).Inv :=
  { h with errKind := ErrKind.code_ne_seven hk }

theorem State.Inv.illegal {s : State} (h : s.Inv) : s.illegal.Inv := { h with }

/-! ### The work of an arm -/

/-- u is what an arm makes of s before it ends: ERRS is not touched (R163), and the invariant is kept. -/
structure Work (s u : State) : Prop where
  errs : u.statusErrs = s.statusErrs
  inv : s.Inv → u.Inv

theorem Work.refl (s : State) : Work s s := ⟨rfl, id⟩

theorem Work.trans {s t u : State} (h : Work s t) (h' : Work t u) : Work s u :=
  ⟨h'.errs.trans h.errs, fun hi => h'.inv (h.inv hi)⟩

theorem work_setRes (s : State) (v : Nat) : Work s (s.setRes v) := ⟨rfl, fun h => { h with }⟩

theorem work_setZ (s : State) (z : Bool) : Work s (s.setZ z) := ⟨rfl, fun h => { h with }⟩

theorem work_setFmt (s : State) (u : BitVec 15) : Work s { s with fmt := u } := ⟨rfl, fun h => { h with }⟩

theorem work_acceptFormat (s : State) (v : BitVec 15) : Work s (s.acceptFormat v) := ⟨rfl, fun h => { h with }⟩

theorem work_advance (s : State) (n : Nat) : Work s (s.advance n) := ⟨rfl, fun h => { h with }⟩

theorem work_setVersion (s : State) {v : BitVec 6} (hv : v.toNat ≤ 40) : Work s { s with version := v } :=
  ⟨rfl, fun h => { h with versionRange := hv }⟩

theorem work_setPoly (s : State) {n : Nat} (p : List Byte) (hn : n < 8) : Work s (s.setPoly n p) :=
  ⟨rfl, fun h => { h with polyWf := s.setPoly_wf n p h.polyWf, polyBelow := s.setPoly_below p hn h.polyBelow }⟩

theorem work_putFormatSyndromes (s : State) (u : BitVec 15) : Work s (s.putFormatSyndromes u) :=
  work_setPoly s _ (by decide)

theorem work_putBlockSyndromes (s : State) (bs npar : Nat) : Work s (s.putBlockSyndromes bs npar) :=
  work_setPoly s _ (by decide)

theorem work_setCw (s : State) {cw : Memory} (hwf : s.cw.wf → cw.wf) (hbelow : s.cw.below 256 → cw.below 256) :
    Work s { s with cw := cw } :=
  ⟨rfl, fun h => { h with cwWf := hwf h.cwWf, cwBelow := hbelow h.cwBelow }⟩

/-! ### Forney's corrections stay inside the codeword space -/

section Forney

variable (m : Nat) (sigma omega dsigma : List Byte) (bs : Nat)

/-- A candidate position keeps what every write inside the block keeps. -/
theorem forneyAt_keeps {P : Memory → Prop} (hP : ∀ cw v i, P cw → i < bs → P (cw.write (bs - 1 - i) v)) {cw : Memory} (h : P cw)
    {i : Nat} (hi : i < bs) : P (forneyAt m sigma omega dsigma bs cw i) := by
  unfold forneyAt
  dsimp only
  split
  · split
    · exact h
    · exact hP cw _ i h hi
  · exact h

theorem forney_keeps {P : Memory → Prop} (hP : ∀ cw v i, P cw → i < bs → P (cw.write (bs - 1 - i) v)) {cw : Memory} (h : P cw) :
    P (forney m sigma omega dsigma bs cw) :=
  List.foldlRecOn (List.range bs) _ h fun _ hcw _ hi =>
    forneyAt_keeps m sigma omega dsigma bs hP hcw (List.mem_range.1 hi)

theorem forney_wf {cw : Memory} (h : cw.wf) : (forney m sigma omega dsigma bs cw).wf :=
  forney_keeps m sigma omega dsigma bs (P := Memory.wf) (fun _ v i hcw _ => Memory.write_wf hcw (bs - 1 - i) v) h

theorem forney_below {cw : Memory} {size : Nat} (h : cw.below size) (hbs : bs ≤ size) :
    (forney m sigma omega dsigma bs cw).below size :=
  forney_keeps m sigma omega dsigma bs (P := (Memory.below · size)) (fun _ v _ hcw hi => Memory.write_below hcw (by omega) v) h

end Forney

/-! ### The endings -/

/-- The three ways a command ends. -/
inductive CommandEnd (i : Instr) (s : State) : Result → Prop
  | illegal (hi : illegalOperands s i) : CommandEnd i s (.next s.illegal)
  | succeeded {u : State} (hl : ¬ illegalOperands s i) (hu : Work s u) : CommandEnd i s (.next u.succeed)
  | raised {u : State} {k : ErrKind} (hl : ¬ illegalOperands s i) (hu : Work s u) (hk : k ≠ .unknownDataType) :
      CommandEnd i s (.next (u.raise k))

theorem execNop_end (s : State) : CommandEnd .nop s (execNop s) := .succeeded id (.refl s)

theorem execGfexp_end (f : GField) (idx : Byte) (s : State) : CommandEnd (.gfexp f idx) s (execGfexp f idx s) :=
  .succeeded id (work_setRes s _)

theorem execGflog_end (f : GField) (a : Byte) (s : State) : CommandEnd (.gflog f a) s (execGflog f a s) := by
  unfold execGflog
  split
  next i h =>
    have hne : elem f a ≠ 0 := fun h0 => by simp [gfLog_elem_eq_none.2 h0] at h
    exact .succeeded hne (work_setRes s i)
  next h => exact .illegal (gfLog_elem_eq_none.1 h)

theorem execPeval_end (f : GField) (ps : PolyIdx) (x : Byte) (s : State) :
    CommandEnd (.peval f ps x) s (execPeval f ps x s) := .succeeded id (work_setRes s _)

theorem execPadd_end (f : GField) (pd ps : PolyIdx) (c shift : Byte) (s : State) :
    CommandEnd (.padd f pd ps c shift) s (execPadd f pd ps c shift s) := .succeeded id (work_setPoly s _ pd.isLt)

theorem execBm_end (f : GField) (n : Byte) (s : State) : CommandEnd (.bm f n) s (execBm f n s) := by
  unfold execBm
  split
  next h => exact .succeeded ((legalOperands_iff s (.bm f n)).1 h) (work_setPoly s _ (by decide))
  next h => exact .illegal (illegalOperands_of_not_legal h)

theorem execFsyn_end (s : State) : CommandEnd .fsyn s (execFsyn s) :=
  .succeeded id ((work_putFormatSyndromes s _).trans (work_setZ _ _))

theorem execFcorr_end (s : State) : CommandEnd .fcorr s (execFcorr s) := by
  have checked (u : BitVec 15) : Work s ((({ s with fmt := u } : State).putFormatSyndromes u).setZ (formatClean u)) :=
    ((work_setFmt s u).trans (work_putFormatSyndromes _ u)).trans (work_setZ _ _)
  have searched (sigma : List Byte) (v : BitVec 15) (t : State) :
      Work t ((t.setPoly regSIGMA sigma).putFormatSyndromes v) :=
    (work_setPoly t sigma (by decide)).trans (work_putFormatSyndromes _ v)
  unfold execFcorr
  dsimp only
  split
  · exact .succeeded id ((checked _).trans (work_acceptFormat _ _))
  · split
    · exact .succeeded id (((checked _).trans (searched _ _ _)).trans (work_acceptFormat _ _))
    · exact .raised id ((checked _).trans (searched _ _ _)) (by decide)

theorem execBsyn_end (bs npar : Byte) (s : State) : CommandEnd (.bsyn bs npar) s (execBsyn bs npar s) := by
  unfold execBsyn
  split
  next h =>
    exact .succeeded ((legalOperands_iff s (.bsyn bs npar)).1 h) ((work_putBlockSyndromes s _ _).trans (work_setZ _ _))
  next h => exact .illegal (illegalOperands_of_not_legal h)

theorem execEevp_end (npar : Byte) (s : State) : CommandEnd (.eevp npar) s (execEevp npar s) := by
  unfold execEevp
  split
  next h =>
    exact .succeeded ((legalOperands_iff s (.eevp npar)).1 h)
      ((work_setPoly s _ (by decide)).trans (work_setPoly _ _ (by decide)))
  next h => exact .illegal (illegalOperands_of_not_legal h)

theorem execBcorr_end (bs dw : Byte) (s : State) : CommandEnd (.bcorr bs dw) s (execBcorr bs dw s) := by
  have checked (n npar : Nat) : Work s ((s.putBlockSyndromes n npar).setZ (blockClean s.cw n npar)) :=
    (work_putBlockSyndromes s n npar).trans (work_setZ _ _)
  have polys (sigma omega dsigma : List Byte) (t : State) :
      Work t (((t.setPoly regSIGMA sigma).setPoly regOMEGA omega).setPoly regDSIGMA dsigma) :=
    ((work_setPoly t sigma (by decide)).trans (work_setPoly _ omega (by decide))).trans (work_setPoly _ dsigma (by decide))
  have corrected (m : Nat) (sigma omega dsigma : List Byte) (t : State) :
      Work t { t with cw := forney m sigma omega dsigma bs.toNat t.cw } :=
    work_setCw t (forney_wf m sigma omega dsigma _) fun h => forney_below m sigma omega dsigma _ h bs.isLt.le
  unfold execBcorr
  split
  next h =>
    have hl := (legalOperands_iff s (.bcorr bs dw)).1 h
    have hbad := fun m npar sigma omega dsigma =>
      (((checked bs.toNat npar).trans (polys sigma omega dsigma _)).trans (corrected m sigma omega dsigma _)).trans
        (work_putBlockSyndromes _ bs.toNat npar)
    dsimp only
    split
    · exact .succeeded hl (checked _ _)
    · split
      · exact .succeeded hl (hbad _ _ _ _ _)
      · exact .raised hl (hbad _ _ _ _ _) (by decide)
  next h => exact .illegal (illegalOperands_of_not_legal h)

theorem execVers_end (size : Byte) (s : State) : CommandEnd (.vers size) s (execVers size s) := by
  have cleared : Work s { s with version := 0 } := work_setVersion s (by decide)
  unfold execVers
  split
  · exact .raised id cleared (by decide)
  · dsimp only
    split
    · exact .raised id cleared (by decide)
    next hv =>
      refine .succeeded id (work_setVersion s ?_)
      rw [BitVec.toNat_ofNat]
      omega

theorem execTake_end (n : Byte) (s : State) : CommandEnd (.take n) s (execTake n s) := by
  unfold execTake
  split
  next h =>
    have hl := (legalOperands_iff s (.take n)).1 h
    split
    · exact .raised hl (.refl s) (by decide)
    next r hr =>
      obtain ⟨-, rfl⟩ := State.field_some.1 hr
      exact .succeeded hl ((work_advance s _).trans (work_setRes _ _))
  next h => exact .illegal (illegalOperands_of_not_legal h)

end Sys2Proof.Machine
end

section
/-!
One induction over the segment decoder (42_bitstream.md R125 to R135), for relations between two engines: what the four
operations on the record keep, a whole run of PAYLOAD's loop keeps. With equality inside the relation it is an invariant of
one engine, with agreement on the inputs it is noninterference.
-/

namespace Sys2Proof.Machine

/-! ### The bytes of a group -/

theorem groupSize_pos (m : DataMode) : 0 < m.groupSize := by cases m <;> decide

theorem mem_groups_pos {m : DataMode} {count k : Nat} (h : k ∈ m.groups count) : 0 < k := by
  rcases List.mem_append.1 h with h | h
  · rw [List.eq_of_mem_replicate h]
    exact groupSize_pos m
  · split at h
    · cases h
    next hne =>
      rw [List.mem_singleton.1 h]
      exact Nat.pos_of_ne_zero hne

/-- The groups of a count hold that many characters (30_encoding.md R67). -/
theorem groups_sum (m : DataMode) (count : Nat) : (m.groups count).sum = count := by
  have htail : (if count % m.groupSize = 0 then [] else [count % m.groupSize]).sum = count % m.groupSize := by
    split
    next h => simp [h]
    next => simp
  rw [DataMode.groups, List.sum_append, htail, List.sum_replicate, smul_eq_mul, Nat.div_add_mod']

/-- A group emits no more than its characters declare (R128 to R131, R134). -/
theorem length_groupBytes_le {m : DataMode} {k : Nat} (hk : 0 < k) (g : Nat) :
    (m.groupBytes k g).length ≤ m.declared k := by
  cases m <;> simp [DataMode.groupBytes, DataMode.declared] <;> omega

theorem declared_add (m : DataMode) (a b : Nat) : m.declared (a + b) = m.declared a + m.declared b := by
  cases m <;> simp [DataMode.declared, Nat.mul_add]

/-- `PLEN` never moves further than the bytes emitted, wrapped or not. -/
theorem emit_plen_le (s : State) (bs : List Byte) : (s.emit bs).plen.toNat ≤ s.plen.toNat + bs.length := by
  rw [State.emit_plen, BitVec.toNat_add, BitVec.toNat_ofNat]
  exact (Nat.mod_le _ _).trans (Nat.add_le_add_left (Nat.mod_le _ _) _)

/-! ### Relations the decoder keeps -/

/-- What the decoder of segments reads of a state. -/
structure SameStream (s t : State) : Prop where
  cfg : s.cfg = t.cfg
  version : s.version = t.version
  databits : s.databits = t.databits
  data : s.data = t.data
  bitptr : s.bitptr = t.bitptr
  plen : s.plen = t.plen

theorem SameStream.refl (s : State) : SameStream s s := ⟨rfl, rfl, rfl, rfl, rfl, rfl⟩

theorem SameStream.remaining {s t : State} (h : SameStream s t) : s.remaining = t.remaining := by
  rw [State.remaining, State.remaining, h.databits, h.bitptr]

theorem SameStream.streamBits {s t : State} (h : SameStream s t) (n : Nat) :
    s.streamBits s.bitptr.toNat n = t.streamBits t.bitptr.toNat n := by
  rw [h.bitptr, State.streamBits_congr h.data]

/-- R relates states with one stream and is kept by each operation of the decoder: bits taken from the stream, bytes
emitted into room that is there (R134), the data type and the ECI noted. -/
structure Simulation (R : State → State → Prop) : Prop where
  stream {s t : State} : R s t → SameStream s t
  advance {s t : State} {n : Nat} : R s t → n ≤ s.remaining → R (s.advance n) (t.advance n)
  emit {s t : State} {bs : List Byte} : R s t → s.plen.toNat + bs.length ≤ s.cfg.payloadCap → R (s.emit bs) (t.emit bs)
  noteType {s t : State} (m : DataMode) : R s t → R (s.noteType m) (t.noteType m)
  setEci {s t : State} (e : Nat) : R s t → R (s.setEci e) (t.setEci e)

/-- The two kinds a segment can raise (R134, R135). -/
def ErrKind.OfStream (k : ErrKind) : Prop := k = .dataOverflow ∨ k = .dataUnderflow

/-- Two segments ended alike, in related states. -/
inductive SegResult.Rel (R : State → State → Prop) : SegResult → SegResult → Prop
  | decoded {s t : State} (h : R s t) : Rel R (.decoded s) (.decoded t)
  | stopped {k : ErrKind} {s t : State} (hk : k.OfStream) (h : R s t) : Rel R (.stopped k s) (.stopped k t)

/-- Two turns ended alike, in related states. -/
inductive Turn.Rel (R : State → State → Prop) : Turn → Turn → Prop
  | more {s t : State} (h : R s t) : Rel R (.more s) (.more t)
  | stop {e : Option ErrKind} {s t : State} (he : ∀ k, e = some k → k.OfStream) (h : R s t) : Rel R (.stop e s) (.stop e t)

namespace Simulation

variable {R : State → State → Prop}

/-- Related states both fail a field, or both read the same one. -/
theorem field (sim : Simulation R) {s t : State} (h : R s t) (n : Nat) :
    (s.field n = none ∧ t.field n = none) ∨
    ∃ v, s.field n = some (v, s.advance n) ∧ t.field n = some (v, t.advance n) ∧ R (s.advance n) (t.advance n) := by
  have hst := sim.stream h
  by_cases hn : n ≤ s.remaining
  · refine .inr ⟨_, State.field_of_le hn, ?_, sim.advance h hn⟩
    rw [hst.streamBits n]
    exact State.field_of_le (hst.remaining ▸ hn)
  · exact .inl ⟨State.field_none.2 (by omega), State.field_none.2 (by rw [← hst.remaining]; omega)⟩

theorem decodeGroups (sim : Simulation R) (m : DataMode) (ks : List Nat) {s t : State} (h : R s t)
    (hpos : ∀ k ∈ ks, 0 < k) (hroom : s.plen.toNat + m.declared ks.sum ≤ s.cfg.payloadCap) :
    SegResult.Rel R (decodeGroups m ks s) (decodeGroups m ks t) := by
  induction ks generalizing s t with
  | nil => exact .decoded h
  | cons k ks ih =>
    unfold Machine.decodeGroups
    rcases sim.field h (m.groupWidth k) with ⟨hs, ht⟩ | ⟨v, hs, ht, h'⟩
    · rw [hs, ht]
      exact .stopped (.inr rfl) h
    · rw [hs, ht]
      have hlen := length_groupBytes_le (m := m) (hpos k (by simp)) v
      have hplen := emit_plen_le (s.advance (m.groupWidth k)) (m.groupBytes k v)
      rw [List.sum_cons, declared_add] at hroom
      rw [State.advance_plen] at hplen
      dsimp only
      refine ih (sim.emit h' ?_) (fun j hj => hpos j (by simp [hj])) ?_
      · rw [State.advance_plen, State.advance_cfg]
        omega
      · rw [State.emit_cfg, State.advance_cfg]
        omega

theorem dataSegment (sim : Simulation R) (m : DataMode) {s t : State} (h : R s t) :
    SegResult.Rel R (dataSegment m s) (dataSegment m t) := by
  unfold Machine.dataSegment
  rw [← (sim.stream h).version]
  rcases sim.field h (m.countWidth s.version.toNat) with ⟨hs, ht⟩ | ⟨count, hs, ht, h'⟩
  · rw [hs, ht]
    exact .stopped (.inr rfl) h
  · rw [hs, ht]
    dsimp only
    rw [← (sim.stream h').plen, ← (sim.stream h').cfg]
    split
    · exact .stopped (.inl rfl) h'
    · exact sim.decodeGroups m _ h' (fun _ => mem_groups_pos) (by rw [groups_sum]; omega)

theorem eciSegment (sim : Simulation R) {s t : State} (h : R s t) : SegResult.Rel R (eciSegment s) (eciSegment t) := by
  unfold Machine.eciSegment
  rcases sim.field h 8 with ⟨hs, ht⟩ | ⟨lead, hs, ht, h'⟩
  · rw [hs, ht]
    exact .stopped (.inr rfl) h
  · rw [hs, ht]
    dsimp only
    split
    · rcases sim.field h' 8 with ⟨hs, ht⟩ | ⟨v, hs, ht, h''⟩
      · rw [hs, ht]
        exact .stopped (.inr rfl) h'
      · rw [hs, ht]
        exact .decoded (sim.setEci _ h'')
    · split
      · rcases sim.field h' 16 with ⟨hs, ht⟩ | ⟨v, hs, ht, h''⟩
        · rw [hs, ht]
          exact .stopped (.inr rfl) h'
        · rw [hs, ht]
          exact .decoded (sim.setEci _ h'')
      · exact .decoded (sim.setEci _ h')

theorem dataTurn (sim : Simulation R) (m : DataMode) {s t : State} (h : R s t) :
    Turn.Rel R (dataTurn m s) (dataTurn m t) := by
  unfold Machine.dataTurn
  have hseg := sim.dataSegment m h
  generalize Machine.dataSegment m s = a at hseg ⊢
  generalize Machine.dataSegment m t = b at hseg ⊢
  cases hseg with
  | decoded h' => exact .more (sim.noteType m h')
  | stopped hk h' => exact .stop (fun _ he => Option.some.inj he ▸ hk) h'

theorem eciTurn (sim : Simulation R) {s t : State} (h : R s t) : Turn.Rel R (eciTurn s) (eciTurn t) := by
  unfold Machine.eciTurn
  have hseg := sim.eciSegment h
  generalize Machine.eciSegment s = a at hseg ⊢
  generalize Machine.eciSegment t = b at hseg ⊢
  cases hseg with
  | decoded h' => exact .more h'
  | stopped hk h' => exact .stop (fun _ he => Option.some.inj he ▸ hk) h'

theorem turn (sim : Simulation R) (mode : BitVec 4) {s t : State} (h : R s t) :
    Turn.Rel R (turn mode s) (turn mode t) := by
  unfold Machine.turn
  split
  · exact sim.dataTurn .numeric h
  split
  · exact sim.dataTurn .alphanumeric h
  split
  · exact sim.dataTurn .byte h
  split
  · exact sim.dataTurn .kanji h
  split
  · exact sim.eciTurn h
  · exact .stop nofun h

/-- Two runs of PAYLOAD's loop from related states end alike, in related states. -/
theorem payloadLoop (sim : Simulation R) (n : Nat) {s t : State} (h : R s t) :
    (payloadLoop n s).1 = (payloadLoop n t).1 ∧ (∀ k, (payloadLoop n s).1 = some k → k.OfStream) ∧
      R (payloadLoop n s).2 (payloadLoop n t).2 := by
  induction n generalizing s t with
  | zero => exact ⟨rfl, nofun, h⟩
  | succ n ih =>
    have hst := sim.stream h
    unfold Machine.payloadLoop
    rw [← hst.remaining]
    split
    · exact ⟨rfl, nofun, h⟩
    next hlong =>
      have hbits : (t.take 4).1 = (s.take 4).1 := (hst.streamBits 4).symm
      have hturn : Turn.Rel R (Machine.turn (BitVec.ofNat 4 (s.take 4).1) (s.take 4).2)
          (Machine.turn (BitVec.ofNat 4 (s.take 4).1) (t.take 4).2) := sim.turn _ (sim.advance h (by omega))
      rw [hbits]
      generalize Machine.turn _ (s.take 4).2 = a at hturn ⊢
      generalize Machine.turn _ (t.take 4).2 = b at hturn ⊢
      cases hturn with
      | more h' => exact ih h'
      | stop he h' => exact ⟨rfl, he, h'⟩

end Simulation

end Sys2Proof.Machine
end

section
/-!
PAYLOAD keeps the invariant across its loop and its ending (42_bitstream.md R125, R135), and with it every step does.
-/

namespace Sys2Proof.Machine

open Sys2Proof.Stmt

/-! ### The ending of PAYLOAD -/

/-- `finish` without what it does to `ERR` and the flags: a full buffer gives up its last byte, the nul is written (R135). -/
def State.closeRecord (s : State) : State :=
  { s with
    plen := if s.cfg.payloadCap ≤ s.plen.toNat then s.plen - 1 else s.plen
    payload := s.payload.write (if s.cfg.payloadCap ≤ s.plen.toNat then s.plen - 1 else s.plen).toNat 0 }

theorem State.finish_none_eq (s : State) : s.finish none = s.closeRecord.succeed := rfl

theorem State.finish_some_eq (s : State) (k : ErrKind) : s.finish (some k) = s.closeRecord.raise k := rfl

theorem State.closeRecord_payload (s : State) :
    s.closeRecord.payload = s.payload.write s.closeRecord.plen.toNat 0 := rfl

/-- The nul goes to the end of the payload, or in place of the last byte of a full buffer. -/
theorem State.closeRecord_plen_toNat {s : State} (hcap : 0 < s.cfg.payloadCap) :
    s.closeRecord.plen.toNat = if s.cfg.payloadCap ≤ s.plen.toNat then s.plen.toNat - 1 else s.plen.toNat := by
  have hlt := s.plen.isLt
  unfold State.closeRecord
  dsimp only
  split
  · have hone : (1 : BitVec 16).toNat = 1 := rfl
    rw [BitVec.toNat_sub, hone]
    omega
  · rfl

theorem State.closeRecord_plen_le {s : State} (hcap : 0 < s.cfg.payloadCap) : s.closeRecord.plen.toNat ≤ s.plen.toNat := by
  rw [State.closeRecord_plen_toNat hcap]
  split <;> omega

theorem State.closeRecord_plen_lt {s : State} (hcap : 0 < s.cfg.payloadCap) (hplen : s.plen.toNat ≤ s.cfg.payloadCap) :
    s.closeRecord.plen.toNat < s.cfg.payloadCap := by
  rw [State.closeRecord_plen_toNat hcap]
  split <;> omega

theorem State.closeRecord_read (s : State) (a : Nat) :
    s.closeRecord.payload.read a = if s.closeRecord.plen.toNat = a then 0 else s.payload.read a := by
  rw [State.closeRecord_payload, Memory.read_write]

/-! ### The record while the loop runs -/

/-- The invariant's clauses on the record between two segments, where the buffer may be exactly full. -/
structure RecordOk (s : State) : Prop where
  payloadWf : s.payload.wf
  payloadBelow : s.payload.below s.cfg.payloadCap
  plenLe : s.plen.toNat ≤ s.cfg.payloadCap
  dtypeCode : s.dtype = 0 ∨ s.dtype = 1 ∨ s.dtype = 2 ∨ s.dtype = 4 ∨ s.dtype = 8

theorem RecordOk.emit {s : State} (h : RecordOk s) {bs : List Byte} (hroom : s.plen.toNat + bs.length ≤ s.cfg.payloadCap) :
    RecordOk (s.emit bs) where
  payloadWf := Memory.writeList_wf h.payloadWf _ _
  payloadBelow := Memory.writeList_below h.payloadBelow _ hroom
  plenLe := (emit_plen_le s bs).trans hroom
  dtypeCode := h.dtypeCode

theorem RecordOk.noteType {s : State} (h : RecordOk s) (m : DataMode) : RecordOk (s.noteType m) :=
  { h with
    dtypeCode := by
      rw [State.noteType_dtype]
      split
      · cases m <;> simp [DataMode.code]
      · exact h.dtypeCode }

theorem simulation_eq : Simulation fun s t => s = t where
  stream hst := hst ▸ .refl _
  advance hst _ := hst ▸ rfl
  emit hst _ := hst ▸ rfl
  noteType _ hst := hst ▸ rfl
  setEci _ hst := hst ▸ rfl

/-- One engine's good record is an invariant of the decoder. -/
theorem simulation_recordOk : Simulation fun s t => s = t ∧ RecordOk s where
  stream := fun ⟨hst, _⟩ => hst ▸ .refl _
  advance := fun ⟨hst, h⟩ _ => ⟨hst ▸ rfl, { h with }⟩
  emit := fun ⟨hst, h⟩ hroom => ⟨hst ▸ rfl, h.emit hroom⟩
  noteType m := fun ⟨hst, h⟩ => ⟨hst ▸ rfl, h.noteType m⟩
  setEci _ := fun ⟨hst, h⟩ => ⟨hst ▸ rfl, { h with }⟩

theorem recordOk_payloadLoop (n : Nat) {s : State} (h : RecordOk s) : RecordOk (payloadLoop n s).2 :=
  (simulation_recordOk.payloadLoop n ⟨rfl, h⟩).2.2.2

/-- The kinds with which PAYLOAD's loop can end, from any state. -/
theorem ofStream_of_payloadLoop {n : Nat} {s : State} {k : ErrKind} (hk : (payloadLoop n s).1 = some k) : k.OfStream :=
  (simulation_eq.payloadLoop n (s := s) rfl).2.1 k hk

theorem State.Inv.recordOk_freshRecord {s : State} (h : s.Inv) : RecordOk s.freshRecord where
  payloadWf := h.payloadWf
  payloadBelow := h.payloadBelow
  plenLe := Nat.zero_le _
  dtypeCode := .inl rfl

/-! ### What a run of the loop leaves alone -/

section Frame

variable {s t : State}

theorem SameButRecord.cfg_eq (h : SameButRecord s t) : t.cfg = s.cfg := by unfold SameButRecord at h; rw [h]

theorem SameButRecord.statusErrs_eq (h : SameButRecord s t) : t.statusErrs = s.statusErrs := by
  unfold SameButRecord at h; rw [h]

theorem SameButRecord.err_eq (h : SameButRecord s t) : t.err = s.err := by unfold SameButRecord at h; rw [h]

theorem SameButRecord.version_eq (h : SameButRecord s t) : t.version = s.version := by unfold SameButRecord at h; rw [h]

theorem SameButRecord.poly_eq (h : SameButRecord s t) : t.poly = s.poly := by unfold SameButRecord at h; rw [h]

theorem SameButRecord.cw_eq (h : SameButRecord s t) : t.cw = s.cw := by unfold SameButRecord at h; rw [h]

theorem SameButRecord.data_eq (h : SameButRecord s t) : t.data = s.data := by unfold SameButRecord at h; rw [h]

end Frame

/-! ### PAYLOAD ends like every command -/

/-- A good record, closed, on an engine that is otherwise as it was. -/
theorem State.Inv.closeRecord {s u : State} (h : s.Inv) (hu : SameButRecord s.freshRecord u) (hr : RecordOk u) :
    u.closeRecord.Inv := by
  have hcap : 0 < u.cfg.payloadCap := by
    obtain ⟨-, -, hcap, -⟩ := h.config
    rw [hu.cfg_eq, State.freshRecord_cfg]
    omega
  have hplen := State.closeRecord_plen_lt hcap hr.plenLe
  exact {
    config := show u.cfg.wf from hu.cfg_eq ▸ h.config
    polyWf := show u.poly.wf from hu.poly_eq ▸ h.polyWf
    polyBelow := show u.poly.below (8 * u.cfg.maxPoly) from hu.poly_eq ▸ hu.cfg_eq ▸ h.polyBelow
    cwWf := show u.cw.wf from hu.cw_eq ▸ h.cwWf
    cwBelow := show u.cw.below 256 from hu.cw_eq ▸ h.cwBelow
    dataWf := show u.data.wf from hu.data_eq ▸ h.dataWf
    dataBelow := show u.data.below u.cfg.dataCap from hu.data_eq ▸ hu.cfg_eq ▸ h.dataBelow
    payloadWf := by rw [State.closeRecord_payload]; exact Memory.write_wf hr.payloadWf _ _
    payloadBelow := by rw [State.closeRecord_payload]; exact Memory.write_below hr.payloadBelow hplen _
    errKind := show u.err ≠ 7 from hu.err_eq ▸ h.errKind
    versionRange := show u.version.toNat ≤ 40 from hu.version_eq ▸ h.versionRange
    plenRange := hplen
    nul := by rw [State.closeRecord_read, if_pos rfl]
    dtypeCode := hr.dtypeCode }

theorem work_closeRecord {s u : State} (hu : SameButRecord s.freshRecord u) (hr : s.Inv → RecordOk u) :
    Work s u.closeRecord :=
  ⟨hu.statusErrs_eq, fun h => h.closeRecord hu (hr h)⟩

theorem commandEnd_finish {i : Instr} {s u : State} {e : Option ErrKind} (hl : ¬ illegalOperands s i)
    (hu : Work s u.closeRecord) (he : ∀ k, e = some k → k ≠ .unknownDataType) : CommandEnd i s (.next (u.finish e)) := by
  cases e with
  | none => exact .succeeded hl hu
  | some k => exact .raised hl hu (he k rfl)

theorem execPayload_end (s : State) : CommandEnd .payload s (execPayload s) := by
  unfold execPayload
  split
  next h =>
    have hl := (legalOperands_iff s .payload).1 h
    split
    · refine commandEnd_finish hl (work_closeRecord (.refl _) State.Inv.recordOk_freshRecord) ?_
      rintro k ⟨⟩
      decide
    · refine commandEnd_finish hl (work_closeRecord (payloadLoop_state _ _) fun hi =>
        recordOk_payloadLoop _ hi.recordOk_freshRecord) fun k hk => ?_
      rcases ofStream_of_payloadLoop hk with rfl | rfl <;> decide
  next h => exact .illegal (illegalOperands_of_not_legal h)

/-- Every command ends in one of the three ways. -/
theorem exec_end {i : Instr} (hi : isCommand i = true) (s : State) : CommandEnd i s (exec i s) := by
  cases i with
  | nop => exact execNop_end s
  | gfexp f idx => exact execGfexp_end f idx s
  | gflog f a => exact execGflog_end f a s
  | peval f ps x => exact execPeval_end f ps x s
  | padd f pd ps c shift => exact execPadd_end f pd ps c shift s
  | bm f n => exact execBm_end f n s
  | fsyn => exact execFsyn_end s
  | fcorr => exact execFcorr_end s
  | bsyn bs npar => exact execBsyn_end bs npar s
  | eevp npar => exact execEevp_end npar s
  | bcorr bs dw => exact execBcorr_end bs dw s
  | vers size => exact execVers_end size s
  | take n => exact execTake_end n s
  | payload => exact execPayload_end s
  | segNum | segAlnum | segByte | segKanji | segEci | segEnd mode => cases hi

/-- A command word is a command: no segment is issued on the bus (30_encoding.md R64). -/
theorem isCommand_of_decodeWord {w : Word} {i : Instr} (h : decodeWord w = .ok i) : isCommand i = true := by
  unfold decodeWord at h
  split at h
  · cases h
  next o _ =>
    split at h
    · cases h
    · cases h
      cases o <;> rfl

/-! ### Steps -/

/-- The state an access leaves, with the command it issued, if any, still to run. -/
def WriteEffect.state : WriteEffect → State
  | .finished s => s
  | .command _ s => s

/-- A step is idle, or an access and what it issues: nothing, an illegal word, or a command. -/
theorem step_eq_next {s t : State} (h : step s = .next t) :
    t = s ∨ ∃ a rest u, s.inbox = a :: rest ∧ u = (s.popAccess.access a).state ∧
      (t = u ∨ t = u.illegal ∨ ∃ i, isCommand i = true ∧ exec i u = .next t) := by
  rcases step_cases s with ⟨-, hs⟩ | ⟨a, rest, u, hin, ha, hs⟩ | ⟨a, rest, w, u, i, hin, ha, hd, hs⟩ |
    ⟨a, rest, w, u, e, hin, ha, -, hs⟩ <;> rw [hs] at h
  · cases h
    exact .inl rfl
  · cases h
    exact .inr ⟨a, rest, t, hin, by rw [ha, WriteEffect.state], .inl rfl⟩
  · exact .inr ⟨a, rest, u, hin, by rw [ha, WriteEffect.state], .inr (.inr ⟨i, isCommand_of_decodeWord hd, h⟩)⟩
  · cases h
    exact .inr ⟨a, rest, u, hin, by rw [ha, WriteEffect.state], .inr (.inl rfl)⟩

theorem State.Inv.exec {i : Instr} {s t : State} (h : s.Inv) (hi : isCommand i = true) (ht : exec i s = .next t) : t.Inv := by
  have hend := exec_end hi s
  rw [ht] at hend
  cases hend with
  | illegal => exact h.illegal
  | succeeded _ hu => exact (hu.inv h).succeed
  | raised _ hu hk => exact (hu.inv h).raise hk

theorem State.Inv.popAccess {s : State} (h : s.Inv) : s.popAccess.Inv := { h with }

theorem State.Inv.respond {s : State} (h : s.Inv) (r : BusResponse) : (s.respond r).Inv := { h with }

/-- No register a host can write is one the invariant speaks of. -/
theorem State.Inv.writeReg {s : State} (h : s.Inv) (v : Word) (r : RegName) : (s.writeReg v r).Inv := by
  cases r <;> exact { h with }

theorem State.Inv.access {s : State} (h : s.Inv) (a : HostAccess) : (s.access a).state.Inv := by
  have heff := access_effect s a
  generalize s.access a = e at heff ⊢
  cases heff with
  | answered _ _ r => exact h.respond r
  | refused => exact h.respond .busError
  | command => exact h.respond .done
  | register _ v r => exact (h.writeReg v r).respond .done
  | poly _ _ _ i hi =>
    exact { h with polyWf := Memory.write_wf h.polyWf i _, polyBelow := Memory.write_below h.polyBelow hi _ }
  | cw _ _ _ i hi =>
    exact { h with cwWf := Memory.write_wf h.cwWf i _, cwBelow := Memory.write_below h.cwBelow hi _ }
  | data _ _ _ i hi =>
    exact { h with dataWf := Memory.write_wf h.dataWf i _, dataBelow := Memory.write_below h.dataBelow hi _ }

/-- Settles O56: a step is an access, and at most one command after it; both keep the invariant. -/
theorem stepKeepsInvariant : Obligations.StepKeepsInvariant := by
  intro s t h hstep
  rcases step_eq_next hstep with rfl | ⟨a, -, u, -, rfl, hend⟩
  · exact h
  · have hu := h.popAccess.access a
    rcases hend with rfl | rfl | ⟨i, hi, hexec⟩
    · exact hu
    · exact hu.illegal
    · exact hu.exec hi hexec

/-! ### The sticky flag -/

theorem exec_statusErrs {i : Instr} {s t : State} (hi : isCommand i = true) (ht : exec i s = .next t)
    (hs : s.statusErrs = true) : t.statusErrs = true := by
  have hend := exec_end hi s
  rw [ht] at hend
  cases hend with
  | illegal => rfl
  | succeeded _ hu => exact hu.errs.trans hs
  | raised => rfl

/-- A command that is illegal or ends in error ends with ERRS set (R12, R163). -/
theorem exec_sets_statusErrs {i : Instr} {s t : State} (hi : isCommand i = true) (ht : exec i s = .next t)
    (hbad : illegalOperands s i ∨ t.err ≠ 0) : t.statusErrs = true := by
  have hend := exec_end hi s
  rw [ht] at hend
  cases hend with
  | illegal => rfl
  | succeeded hl =>
    rcases hbad with hill | herr
    · exact absurd hill hl
    · exact absurd rfl herr
  | raised => rfl

theorem writeReg_statusErrs_of_ne (s : State) (v : Word) {r : RegName} (hr : r ≠ .status) :
    (s.writeReg v r).statusErrs = s.statusErrs := by
  cases r with
  | status => exact absurd rfl hr
  | _ => rfl

/-- An access that clears ERRS is a write of a 1 to bit 3 of STATUS (R12, R181). -/
theorem access_clears_statusErrs {s : State} {a : HostAccess} (hs : s.statusErrs = true)
    (hc : (s.access a).state.statusErrs = false) : ∃ v : Word, a = .write 0x0004 .w32 v ∧ v.getLsbD 3 = true := by
  have keep {u : State} (hu : u.statusErrs = s.statusErrs) (hc : u.statusErrs = false) : False := by simp_all
  have heff := access_effect s a
  generalize s.access a = e at heff hc
  cases heff with
  | register off v r hoff =>
    by_cases hr : r = .status
    · subst hr
      obtain rfl : off = 4 := eq_of_regAt hoff
      refine ⟨v, rfl, ?_⟩
      simpa [WriteEffect.state, State.writeReg, hs] using hc
    · exact (keep (writeReg_statusErrs_of_ne s v hr) hc).elim
  | _ => exact (keep rfl hc).elim

/-- Settles O53: the ends of a command for the first part, and for the second the one access that clears the flag. -/
theorem errsIsSticky : Obligations.ErrsIsSticky := by
  refine ⟨fun i s t hi ht hbad => exec_sets_statusErrs hi ht hbad, fun s t hs hstep hclear => ?_⟩
  rcases step_eq_next hstep with rfl | ⟨a, rest, u, hin, rfl, hend⟩
  · simp [hs] at hclear
  · have hu : (s.popAccess.access a).state.statusErrs = false := by
      by_contra hu
      have hset := Bool.eq_true_of_not_eq_false hu
      rcases hend with rfl | rfl | ⟨i, hi, hexec⟩
      · exact hu hclear
      · cases hclear
      · simp [exec_statusErrs hi hexec hset] at hclear
    obtain ⟨v, rfl, hv⟩ := access_clears_statusErrs (s := s.popAccess) hs hu
    exact ⟨v, rest, hin, hv⟩

end Sys2Proof.Machine
end

section
/-!
Noninterference of PAYLOAD (10_state.md R10, 42_bitstream.md R125): the record is a function of the stream and the parameters.
-/

namespace Sys2Proof.Machine

/-- Two engines on one stream whose records agree, the payload up to its length. -/
structure RecordAgree (s t : State) : Prop extends SameStream s t where
  dtype : s.dtype = t.dtype
  eci : s.eci = t.eci
  payload : ∀ a < s.plen.toNat, s.payload.read a = t.payload.read a

theorem RecordAgree.emit {s t : State} (h : RecordAgree s t) (bs : List Byte) : RecordAgree (s.emit bs) (t.emit bs) :=
  { h with
    plen := by rw [State.emit_plen, State.emit_plen, h.plen]
    payload := fun a ha => by
      have hle := emit_plen_le s bs
      rw [State.emit_read, State.emit_read, ← h.plen]
      split
      · rfl
      · exact h.payload a (by omega) }

theorem simulation_recordAgree : Simulation RecordAgree where
  stream h := h.toSameStream
  advance {_ _ n} h _ := { h with bitptr := by rw [State.advance_bitptr, State.advance_bitptr, h.bitptr] }
  emit h _ := h.emit _
  noteType m h := { h with dtype := by rw [State.noteType_dtype, State.noteType_dtype, h.dtype] }
  setEci _ h := { h with eci := rfl }

theorem exec_payload_of_version_eq_zero {s : State} (hlegal : s.bitSourceLegal = true) (hv : s.version = 0) :
    exec .payload s = .next (s.freshRecord.finish (some .invalidVersion)) := by
  rw [exec, execPayload, if_pos hlegal, if_pos hv]

theorem exec_payload_of_version_ne_zero {s : State} (hlegal : s.bitSourceLegal = true) (hv : s.version ≠ 0) :
    exec .payload s = .next s.freshRecord.decodeStream := by
  rw [exec, execPayload, if_pos hlegal, if_neg hv]

/-- The fresh records of two engines with the same inputs agree: both are empty. -/
theorem recordAgree_freshRecord {s t : State} (hcfg : s.cfg = t.cfg) (hversion : s.version = t.version)
    (hdatabits : s.databits = t.databits) (hdata : s.data = t.data) : RecordAgree s.freshRecord t.freshRecord where
  cfg := hcfg
  version := hversion
  databits := hdatabits
  data := hdata
  bitptr := rfl
  plen := rfl
  dtype := rfl
  eci := rfl
  payload a ha := absurd ha (Nat.not_lt_zero a)

/-- What the host can read of the result of PAYLOAD is the same, the nul included. -/
structure SameResult (s t : State) : Prop where
  err : s.err = t.err
  bitptr : s.bitptr = t.bitptr
  plen : s.plen = t.plen
  dtype : s.dtype = t.dtype
  eci : s.eci = t.eci
  payload : ∀ a ≤ s.plen.toNat, s.payload.read a = t.payload.read a

theorem RecordAgree.closeRecord_plen {s t : State} (h : RecordAgree s t) : s.closeRecord.plen = t.closeRecord.plen := by
  simp only [State.closeRecord, h.cfg, h.plen]

theorem RecordAgree.closeRecord_read {s t : State} (h : RecordAgree s t) (hcap : 0 < s.cfg.payloadCap) {a : Nat}
    (ha : a ≤ s.closeRecord.plen.toNat) : s.closeRecord.payload.read a = t.closeRecord.payload.read a := by
  have hle := State.closeRecord_plen_le hcap
  rw [State.closeRecord_read, State.closeRecord_read, ← h.closeRecord_plen]
  split
  · rfl
  · exact h.payload a (by omega)

theorem RecordAgree.finish {s t : State} (h : RecordAgree s t) (hcap : 0 < s.cfg.payloadCap) (e : Option ErrKind) :
    SameResult (s.finish e) (t.finish e) := by
  cases e <;> exact {
    err := rfl
    bitptr := h.bitptr
    plen := h.closeRecord_plen
    dtype := h.dtype
    eci := h.eci
    payload := fun _ ha => h.closeRecord_read hcap ha }

theorem RecordAgree.decodeStream {s t : State} (h : RecordAgree s t) (hcap : 0 < s.cfg.payloadCap) :
    SameResult s.decodeStream t.decodeStream := by
  obtain ⟨herr, -, hloop⟩ := simulation_recordAgree.payloadLoop (s.remaining / 4 + 1) h
  have hsame := payloadLoop_state (s.remaining / 4 + 1) s
  rw [State.decodeStream, State.decodeStream, ← h.remaining, ← herr]
  exact hloop.finish (by rwa [hsame.cfg_eq]) _

/-- Settles O28: the two runs are related from their fresh records on. -/
theorem payloadIsAPureFunctionOfItsInputs : Obligations.PayloadIsAPureFunctionOfItsInputs := by
  intro s s' hcfg hversion hdatabits hdata hwf hbits
  have hcap : 0 < s.cfg.payloadCap := by
    obtain ⟨-, -, hcap, -⟩ := hwf
    omega
  have hagree := recordAgree_freshRecord hcfg hversion hdatabits hdata
  have hlegal : s.bitSourceLegal = true := decide_eq_true hbits
  have hlegal' : s'.bitSourceLegal = true := decide_eq_true (hcfg ▸ hdatabits ▸ hbits)
  suffices hres : ∃ t t', exec .payload s = .next t ∧ exec .payload s' = .next t' ∧ SameResult t t' by
    obtain ⟨t, t', ht, ht', h⟩ := hres
    exact ⟨t, t', ht, ht', h.err, h.bitptr, h.plen, h.dtype, h.eci, h.payload⟩
  by_cases hv : s.version = 0
  · exact ⟨_, _, exec_payload_of_version_eq_zero hlegal hv, exec_payload_of_version_eq_zero hlegal' (hversion ▸ hv),
      hagree.finish hcap (some .invalidVersion)⟩
  · exact ⟨_, _, exec_payload_of_version_ne_zero hlegal hv, exec_payload_of_version_ne_zero hlegal' (hversion ▸ hv),
      hagree.decodeStream hcap⟩

end Sys2Proof.Machine
end

section
/-!
Host transfers (20_memory.md R40 to R46, 60_exceptions.md R159): which ones reach a target, what a write stores there, what
every read gives afterwards, and the step that performs one.
-/

namespace Sys2Proof.Machine

open Sys2Proof.Stmt

/-! ### Targets -/

/-- The offset of a target (R40). -/
def Target.offset : Target → Nat
  | .reg r => r.offset
  | .poly i => 0x100 + i
  | .cw i => 0x400 + i
  | .data i => 0x4000 + i
  | .payload i => 0x8000 + i

/-- The only width at which a target is reached (R44). -/
def Target.width : Target → AccessWidth
  | .reg _ => .w32
  | .poly _ | .cw _ | .data _ | .payload _ => .w8

/-- Every target but a byte of `PAYLOAD` takes writes (R44). -/
def Target.writable : Target → Prop
  | .payload _ => False
  | .reg _ | .poly _ | .cw _ | .data _ => True

theorem regAt_offset (r : RegName) : regAt (BitVec.ofNat 16 r.offset).toNat = some r := by cases r <;> rfl

theorem target_offset (c : Config) (r : RegName) : target c (BitVec.ofNat 16 r.offset) .w32 = some (.reg r) :=
  target_eq_reg.2 ⟨rfl, regAt_offset r⟩

theorem byteAt_reaches {c : Config} {off : Nat} {t : Target} (h : byteAt c off = some t) :
    off = t.offset ∧ t.width = .w8 := by
  unfold byteAt at h
  split_ifs at h <;> cases h <;> refine ⟨?_, rfl⟩ <;> simp only [Target.offset] <;> omega

theorem target_reaches {c : Config} {off : BitVec 16} {w : AccessWidth} {t : Target} (h : target c off w = some t) :
    off.toNat = t.offset ∧ w = t.width := by
  cases w with
  | w8 =>
    obtain ⟨hoff, hw⟩ := byteAt_reaches h
    exact ⟨hoff, hw.symm⟩
  | w16 => cases h
  | w32 =>
    obtain ⟨r, hr, rfl⟩ := Option.map_eq_some_iff.1 h
    exact ⟨eq_offset_of_regAt hr, rfl⟩

/-- No two transfers reach one target: the buffers of the window do not overlap (R40). -/
theorem target_injective {c : Config} {off off' : BitVec 16} {w w' : AccessWidth} {t : Target}
    (h : target c off w = some t) (h' : target c off' w' = some t) : off' = off ∧ w' = w := by
  obtain ⟨hoff, hw⟩ := target_reaches h
  obtain ⟨hoff', hw'⟩ := target_reaches h'
  exact ⟨BitVec.eq_of_toNat_eq (hoff'.trans hoff.symm), hw'.trans hw.symm⟩

/-! ### The legal transfers of R44 -/

/-- The register offsets are the aligned ones up to 0x34. -/
theorem registerOffset_iff {off : Nat} : registerOffset off ↔ ∃ r, regAt off = some r := by
  constructor
  · rintro ⟨halign, hle⟩
    obtain ⟨k, rfl⟩ := Nat.dvd_of_mod_eq_zero halign
    have hk : k ≤ 13 := by omega
    interval_cases k <;> exact ⟨_, rfl⟩
  · rintro ⟨r, hr⟩
    rw [eq_offset_of_regAt hr]
    cases r <;> exact ⟨rfl, by decide⟩

theorem regAt_eq_none {off : Nat} : regAt off = none ↔ ¬ registerOffset off := by
  rw [registerOffset_iff, ← Option.ne_none_iff_exists', not_not]

theorem byteAt_eq_none {c : Config} {off : Nat} :
    byteAt c off = none ↔ ¬ (writableByte c off ∨ (0x8000 ≤ off ∧ off < 0x8000 + c.payloadCap)) := by
  unfold byteAt writableByte
  split_ifs <;> simp <;> omega

/-- Reads are legal exactly where there is something to reach. -/
theorem target_eq_none {c : Config} {off : BitVec 16} {w : AccessWidth} :
    target c off w = none ↔ ¬ LegalRead c off w := by
  cases w with
  | w8 => simpa [target, LegalRead] using byteAt_eq_none
  | w16 => simp [target, LegalRead]
  | w32 => simpa [target, LegalRead] using regAt_eq_none

theorem exists_target_of_legalRead {c : Config} {off : BitVec 16} {w : AccessWidth} (h : LegalRead c off w) :
    ∃ t, target c off w = some t :=
  Option.ne_none_iff_exists'.1 fun hnone => target_eq_none.1 hnone h

theorem byteAt_writable_iff {c : Config} {off : Nat} {t : Target} (h : byteAt c off = some t) :
    t.writable ↔ writableByte c off := by
  unfold byteAt at h
  split_ifs at h <;> cases h <;> simp only [Target.writable, writableByte, true_iff, false_iff] <;> omega

theorem target_writable_iff {c : Config} {off : BitVec 16} {w : AccessWidth} {t : Target} (h : target c off w = some t) :
    t.writable ↔ LegalWrite c off w := by
  cases w with
  | w8 => simpa [LegalWrite] using byteAt_writable_iff h
  | w16 => cases h
  | w32 =>
    obtain ⟨r, hr, rfl⟩ := Option.map_eq_some_iff.1 h
    simp [Target.writable, LegalWrite, registerOffset_iff.2 ⟨r, hr⟩]

theorem legalRead_of_legalWrite {c : Config} {off : BitVec 16} {w : AccessWidth} (h : LegalWrite c off w) :
    LegalRead c off w :=
  h.imp id fun ⟨hw, hbyte⟩ => ⟨hw, .inl hbyte⟩

/-- Writes are legal exactly where there is something writable to reach. -/
theorem legalWrite_iff {c : Config} {off : BitVec 16} {w : AccessWidth} :
    LegalWrite c off w ↔ ∃ t, target c off w = some t ∧ t.writable := by
  constructor
  · intro h
    obtain ⟨t, ht⟩ := exists_target_of_legalRead (legalRead_of_legalWrite h)
    exact ⟨t, ht, (target_writable_iff ht).2 h⟩
  · rintro ⟨t, ht, hw⟩
    exact (target_writable_iff ht).1 hw

/-! ### Reads -/

theorem hostRead_of_target {s : State} {off : BitVec 16} {w : AccessWidth} {t : Target}
    (h : target s.cfg off w = some t) : s.hostRead off w = s.respond (.value (s.readTarget t)) := by
  simp only [State.hostRead, h]

theorem hostRead_of_not_legal {s : State} {off : BitVec 16} {w : AccessWidth} (h : ¬ LegalRead s.cfg off w) :
    s.hostRead off w = s.busError := by
  simp only [State.hostRead, target_eq_none.2 h]

/-! ### Writes -/

/-- What a write stores at its target; a write to `CMD` stores nothing (10_state.md R11), and none reaches `PAYLOAD`. -/
def State.store (s : State) (v : Word) : Target → State
  | .reg r => s.writeReg v r
  | .poly i => { s with poly := s.poly.write i (v.setWidth 8) }
  | .cw i => { s with cw := s.cw.write i (v.setWidth 8) }
  | .data i => { s with data := s.data.write i (v.setWidth 8) }
  | .payload _ => s

theorem hostWrite_of_writable {s : State} {off : BitVec 16} {w : AccessWidth} {t : Target}
    (h : target s.cfg off w = some t) (hw : t.writable) (hcmd : t ≠ .reg .cmd) (v : Word) :
    s.hostWrite off w v = .finished ((s.store v t).respond .done) := by
  cases t with
  | reg r =>
    have hr : r ≠ .cmd := fun hr => hcmd (hr ▸ rfl)
    simp only [State.hostWrite, h, if_neg hr, State.store]
  | payload i => exact hw.elim
  | poly i | cw i | data i => simp only [State.hostWrite, h, State.store]

theorem hostWrite_of_not_legal {s : State} {off : BitVec 16} {w : AccessWidth} (h : ¬ LegalWrite s.cfg off w) (v : Word) :
    s.hostWrite off w v = .finished s.busError := by
  cases ht : target s.cfg off w with
  | none => simp only [State.hostWrite, ht]
  | some t =>
    have hw : ¬ t.writable := fun hw => h (legalWrite_iff.2 ⟨t, ht, hw⟩)
    cases t with
    | payload i => simp only [State.hostWrite, ht]
    | reg r | poly i | cw i | data i => exact absurd trivial hw

@[simp] theorem State.store_cfg (s : State) (v : Word) (t : Target) : (s.store v t).cfg = s.cfg := by
  cases t with
  | reg r => cases r <;> rfl
  | poly i | cw i | data i | payload i => rfl

@[simp] theorem State.store_inbox (s : State) (v : Word) (t : Target) : (s.store v t).inbox = s.inbox := by
  cases t with
  | reg r => cases r <;> rfl
  | poly i | cw i | data i | payload i => rfl

/-! ### Reads after a write -/

theorem readTarget_respond (s : State) (r : BusResponse) (t : Target) : (s.respond r).readTarget t = s.readTarget t := rfl

theorem readTarget_setInbox (s : State) (rest : List HostAccess) (t : Target) :
    ({ s with inbox := rest } : State).readTarget t = s.readTarget t := rfl

/-- A byte reads as the low 8 bits that were written to it (log entry 12). -/
theorem readTarget_store_same (s : State) (v : Word) {t : Target} (hbyte : t.width = .w8) (hw : t.writable) :
    (s.store v t).readTarget t = BitVec.ofNat 32 (v.toNat % 256) := by
  have hlow : (v.setWidth 8).setWidth 32 = BitVec.ofNat 32 (v.toNat % 256) := by
    apply BitVec.eq_of_toNat_eq
    simp
  cases t with
  | reg r => cases hbyte
  | payload i => exact hw.elim
  | poly i | cw i | data i => simp only [State.store, State.readTarget, Memory.read_write_same, hlow]

/-- Storing a byte changes what that byte reads as, and nothing else. -/
theorem readTarget_store_ne (s : State) (v : Word) {t t' : Target} (hbyte : t.width = .w8) (hne : t ≠ t') :
    (s.store v t).readTarget t' = s.readTarget t' := by
  cases t with
  | reg r => cases hbyte
  | payload i => rfl
  | poly i =>
    cases t' with
    | poly j => simp only [State.store, State.readTarget, Memory.read_write_ne _ _ fun h => hne (congrArg _ h)]
    | reg r | cw j | data j | payload j => rfl
  | cw i =>
    cases t' with
    | cw j => simp only [State.store, State.readTarget, Memory.read_write_ne _ _ fun h => hne (congrArg _ h)]
    | reg r | poly j | data j | payload j => rfl
  | data i =>
    cases t' with
    | data j => simp only [State.store, State.readTarget, Memory.read_write_ne _ _ fun h => hne (congrArg _ h)]
    | reg r | poly j | cw j | payload j => rfl

/-- The answer to a read is a function of the parameters and of what its target reads as. -/
theorem hostRead_response_congr {s s' : State} {off : BitVec 16} {w : AccessWidth} (hcfg : s'.cfg = s.cfg)
    (hread : ∀ t, target s.cfg off w = some t → s'.readTarget t = s.readTarget t) :
    (s'.hostRead off w).response = (s.hostRead off w).response := by
  cases ht : target s.cfg off w with
  | none => simp only [State.hostRead, hcfg, ht, State.busError, State.respond]
  | some t => simp only [State.hostRead, hcfg, ht, State.respond, hread t ht]

/-! ### Steps -/

theorem step_of_inbox {s : State} {a : HostAccess} {rest : List HostAccess} (hin : s.inbox = a :: rest) :
    step s = runEffect (({ s with inbox := rest } : State).access a) := by
  simp only [step, State.popAccess, hin, List.tail_cons]

theorem step_read {s : State} {off : BitVec 16} {w : AccessWidth} {rest : List HostAccess} {t : Target}
    (hin : s.inbox = .read off w :: rest) (ht : target s.cfg off w = some t) :
    step s = .next { s with inbox := rest, response := some (.value (s.readTarget t)) } := by
  rw [step_of_inbox hin, State.access, hostRead_of_target (s := { s with inbox := rest }) ht, runEffect,
    readTarget_setInbox, State.respond]

theorem step_write {s : State} {off : BitVec 16} {w : AccessWidth} {v : Word} {rest : List HostAccess} {t : Target}
    (hin : s.inbox = .write off w v :: rest) (ht : target s.cfg off w = some t) (hw : t.writable)
    (hcmd : t ≠ .reg .cmd) :
    step s = .next ((({ s with inbox := rest } : State).store v t).respond .done) := by
  rw [step_of_inbox hin, State.access, hostWrite_of_writable (s := { s with inbox := rest }) ht hw hcmd, runEffect]

/-- Settles O52: the byte's target is written, and every other transfer reaches another target. -/
theorem hostByteReadsBackWhatWasWritten : Obligations.HostByteReadsBackWhatWasWritten := by
  intro s off v rest _ hbyte hin
  obtain ⟨t, ht, hw⟩ := legalWrite_iff.1 (.inr ⟨rfl, hbyte⟩ : LegalWrite s.cfg off .w8)
  obtain ⟨-, hwidth⟩ := target_reaches ht
  refine ⟨_, step_write hin ht hw (by rintro rfl; cases hwidth), ?_, fun off' w' hother => ?_⟩
  · rw [hostRead_of_target (t := t) (by simpa using ht), State.respond_response, readTarget_respond,
      readTarget_store_same _ _ hwidth.symm hw]
  · refine hostRead_response_congr (by simp) fun t' ht' => ?_
    have hne : t ≠ t' := by
      rintro rfl
      exact hother (target_injective ht ht')
    rw [readTarget_respond, readTarget_store_ne _ _ hwidth.symm hne, readTarget_setInbox]

/-! ### The registers -/

/-- The number a register reads as; BUSY and bits 31:4 of `STATUS` read 0 (10_state.md R11 to R22). -/
def State.regValue (s : State) : RegName → Nat
  | .cmd => 0
  | .status => 2 * s.statusZ.toNat + 4 * s.statusIll.toNat + 8 * s.statusErrs.toNat
  | .err => s.err.toNat
  | .res => s.res.toNat
  | .fmtraw => s.fmtraw.toNat
  | .fmt => s.fmt.toNat
  | .ecclvl => s.ecclvl.toNat
  | .mask => s.mask.toNat
  | .version => s.version.toNat
  | .databits => s.databits.toNat
  | .bitptr => s.bitptr.toNat
  | .plen => s.plen.toNat
  | .dtype => s.dtype.toNat
  | .eci => s.eci.toNat

theorem statusWord_eq (s : State) : s.statusWord = BitVec.ofNat 32 (s.regValue .status) := by
  simp only [State.statusWord, State.regValue]
  cases s.statusZ <;> cases s.statusIll <;> cases s.statusErrs <;> rfl

theorem readReg_eq (s : State) (r : RegName) : s.readReg r = BitVec.ofNat 32 (s.regValue r) := by
  cases r with
  | cmd => rfl
  | status => exact statusWord_eq s
  | res | databits | bitptr => simp only [State.readReg, State.regValue, BitVec.ofNat_toNat, BitVec.setWidth_eq]
  | err | fmtraw | fmt | ecclvl | mask | version | plen | dtype | eci => exact (BitVec.ofNat_toNat _ _).symm

/-- The registers in the order of their offsets. -/
def RegName.all : List RegName :=
  [.cmd, .status, .err, .res, .fmtraw, .fmt, .ecclvl, .mask, .version, .databits, .bitptr, .plen, .dtype, .eci]

/-- Settles O50: the table of the statement lists each register at its offset with the number it reads as. -/
theorem hostRegisterReads : Obligations.HostRegisterReads := by
  intro s rest off v hmem hin
  change (off, v) ∈ RegName.all.map (fun r => (BitVec.ofNat 16 r.offset, s.regValue r)) at hmem
  obtain ⟨r, -, hr⟩ := List.mem_map.1 hmem
  cases hr
  rw [step_read hin (target_offset s.cfg r), State.readTarget, readReg_eq]

theorem writeReg_setInbox (s : State) (v : Word) (r : RegName) (rest : List HostAccess) :
    ({ s with inbox := rest } : State).writeReg v r = { s.writeReg v r with inbox := rest } := by
  cases r <;> rfl

/-- The registers but `CMD`, those that a host write changes first. -/
def RegName.stored : List RegName :=
  [.status, .fmtraw, .fmt, .databits, .bitptr, .err, .res, .ecclvl, .mask, .version, .plen, .dtype, .eci]

theorem ne_cmd_of_mem_stored {r : RegName} (h : r ∈ RegName.stored) : r ≠ .cmd := by
  rintro rfl
  exact absurd h (by decide)

/-- Settles O51: the table of the statement lists each register at its offset with what a write leaves. -/
theorem hostRegisterWrites : Obligations.HostRegisterWrites := by
  intro s t rest off v hmem hin
  change (off, t) ∈ RegName.stored.map (fun r => (BitVec.ofNat 16 r.offset, s.writeReg v r)) at hmem
  obtain ⟨r, hstored, hr⟩ := List.mem_map.1 hmem
  cases hr
  have hcmd : Target.reg r ≠ .reg .cmd := fun h => ne_cmd_of_mem_stored hstored (Target.reg.inj h)
  rw [step_write hin (target_offset s.cfg r) trivial hcmd, State.store, writeReg_setInbox, State.respond]

end Sys2Proof.Machine
end

section
/-!
The bit source (20_memory.md R42): a field grows by one bit at its low end, in the model's fold and in the weighted sum.
-/

namespace Sys2Proof.Machine

open Sys2Proof.Stmt

theorem bit_eq (s : State) (k : Nat) : bit s k = (s.streamBit k).toNat := by
  unfold bit State.streamBit
  cases (s.data.read (k / 8)).getLsbD (7 - k % 8) <;> rfl

theorem streamBits_succ (s : State) (k n : Nat) :
    s.streamBits k (n + 1) = 2 * s.streamBits k n + (s.streamBit (k + n)).toNat := by
  simp only [State.streamBits, List.range_succ, List.foldl_append, List.foldl_cons, List.foldl_nil]

theorem bits_succ (s : State) (k n : Nat) : bits s k (n + 1) = 2 * bits s k n + bit s (k + n) := by
  have hshift : ∀ j ∈ List.range n, bit s (k + j) * 2 ^ (n + 1 - 1 - j) = 2 * (bit s (k + j) * 2 ^ (n - 1 - j)) := by
    intro j hj
    have hj := List.mem_range.1 hj
    rw [show n + 1 - 1 - j = (n - 1 - j) + 1 by omega, pow_succ]
    ring
  rw [bits, List.range_succ, List.map_append, List.sum_append, List.map_congr_left hshift, List.sum_map_mul_left, ← bits]
  simp

theorem streamBits_eq_bits (s : State) (k n : Nat) : s.streamBits k n = bits s k n := by
  induction n with
  | zero => rfl
  | succ n ih => rw [streamBits_succ, bits_succ, ih, bit_eq]

theorem streamBits_lt (s : State) (k n : Nat) : s.streamBits k n < 2 ^ n := by
  induction n with
  | zero => exact Nat.one_pos
  | succ n ih =>
    have hbit := (s.streamBit (k + n)).toNat_lt
    rw [streamBits_succ, pow_succ]
    omega

/-- Settles O24. -/
theorem streamFieldsAreMsbFirst : Obligations.StreamFieldsAreMsbFirst :=
  fun s k n => ⟨streamBits_eq_bits s k n, streamBits_lt s k n⟩

end Sys2Proof.Machine
end

section
/-!
Commands and the host's side of a state, which is `BASE` (20_memory.md R47, 93_implementation_defined.md U11), the accesses
still to happen and the last answer (log entries 1 and 2): no command reads it, and none writes it.
-/

namespace Sys2Proof.Machine

open Sys2Proof.Stmt

/-- The engine of `s` behind the host's side of `env`. -/
def State.around (s env : State) : State :=
  { s with cfg := { s.cfg with base := env.cfg.base }, inbox := env.inbox, response := env.response }

/-- A meaning's next state behind the host's side of `env`. -/
def Result.around : Result → State → Result
  | .next t, env => .next (t.around env)
  | .fault r, _ => .fault r
  | .refused r, _ => .refused r

/-- A segment's state behind the host's side of `env`. -/
def SegResult.around : SegResult → State → SegResult
  | .decoded t, env => .decoded (t.around env)
  | .stopped k t, env => .stopped k (t.around env)

/-- A turn's state behind the host's side of `env`. -/
def Turn.around : Turn → State → Turn
  | .more t, env => .more (t.around env)
  | .stop e t, env => .stop e (t.around env)

variable (s env : State)

theorem State.around_self : s.around s = s := rfl

theorem Result.around_ite (c : Prop) [Decidable c] (a b : Result) :
    Result.around (if c then a else b) env = if c then Result.around a env else Result.around b env :=
  apply_ite (Result.around · env) c a b

theorem SegResult.around_ite (c : Prop) [Decidable c] (a b : SegResult) :
    (if c then a else b).around env = if c then a.around env else b.around env :=
  apply_ite (SegResult.around · env) c a b

theorem Turn.around_ite (c : Prop) [Decidable c] (a b : Turn) :
    (if c then a else b).around env = if c then a.around env else b.around env :=
  apply_ite (Turn.around · env) c a b

/-! ### The bit source and segments -/

theorem field_around (n : Nat) : (s.around env).field n = (s.field n).map fun r => (r.1, r.2.around env) := by
  by_cases hn : n ≤ s.remaining
  · rw [State.field_of_le hn, State.field_of_le (s := s.around env) hn]
    rfl
  · have hshort : s.remaining < n := by omega
    rw [State.field_none.2 hshort, (State.field_none (s := s.around env)).2 hshort]
    rfl

theorem decodeGroups_around (m : DataMode) (ks : List Nat) :
    decodeGroups m ks (s.around env) = (decodeGroups m ks s).around env := by
  induction ks generalizing s with
  | nil => rfl
  | cons k ks ih =>
    simp only [decodeGroups, field_around]
    cases s.field (m.groupWidth k) with
    | none => rfl
    | some r => exact ih (r.2.emit (m.groupBytes k r.1))

theorem dataSegment_around (m : DataMode) : dataSegment m (s.around env) = (dataSegment m s).around env := by
  have hcount : (s.around env).version = s.version := rfl
  simp only [dataSegment, field_around, hcount]
  cases s.field (m.countWidth s.version.toNat) with
  | none => rfl
  | some r =>
    simp only [Option.map_some, SegResult.around_ite, decodeGroups_around]
    rfl

theorem eciSegment_around : eciSegment (s.around env) = (eciSegment s).around env := by
  simp only [eciSegment, field_around]
  cases s.field 8 with
  | none => rfl
  | some r =>
    simp only [Option.map_some, SegResult.around_ite, field_around]
    cases r.2.field 8 <;> cases r.2.field 16 <;> rfl

theorem dataTurn_around (m : DataMode) : dataTurn m (s.around env) = (dataTurn m s).around env := by
  simp only [dataTurn, dataSegment_around]
  cases dataSegment m s <;> rfl

theorem eciTurn_around : eciTurn (s.around env) = (eciTurn s).around env := by
  simp only [eciTurn, eciSegment_around]
  cases eciSegment s <;> rfl

theorem turn_around (mode : BitVec 4) : turn mode (s.around env) = (turn mode s).around env := by
  simp only [turn, Turn.around_ite, dataTurn_around, eciTurn_around]
  rfl

theorem payloadLoop_around (n : Nat) :
    payloadLoop n (s.around env) = ((payloadLoop n s).1, (payloadLoop n s).2.around env) := by
  induction n generalizing s with
  | zero => rfl
  | succ n ih =>
    have hremaining : (s.around env).remaining = s.remaining := rfl
    have htake : (s.around env).take 4 = ((s.take 4).1, (s.take 4).2.around env) := rfl
    simp only [payloadLoop, hremaining, htake, turn_around]
    split
    · rfl
    · cases turn (BitVec.ofNat 4 (s.take 4).1) (s.take 4).2 with
      | more t => exact ih t
      | stop e t => rfl

theorem finish_around (e : Option ErrKind) : (s.around env).finish e = (s.finish e).around env := by
  cases e <;> rfl

theorem decodeStream_around : (s.around env).decodeStream = s.decodeStream.around env := by
  have hremaining : (s.around env).remaining = s.remaining := rfl
  simp only [State.decodeStream, hremaining, payloadLoop_around, finish_around]

theorem settle_around (t : Turn) : (t.around env).settle = t.settle.around env := by
  cases t with
  | more u => rfl
  | stop e u => exact finish_around u env e

/-! ### Commands -/

theorem execGflog_around (f : GField) (a : Byte) :
    execGflog f a (s.around env) = Result.around (execGflog f a s) env := by
  unfold execGflog
  cases gfLog f (elem f a) <;> rfl

theorem execBm_around (f : GField) (n : Byte) : execBm f n (s.around env) = Result.around (execBm f n s) env := by
  simp only [execBm, Result.around_ite]
  rfl

theorem execFcorr_around : execFcorr (s.around env) = Result.around (execFcorr s) env := by
  simp only [execFcorr, Result.around_ite]
  rfl

theorem execBsyn_around (bs npar : Byte) : execBsyn bs npar (s.around env) = Result.around (execBsyn bs npar s) env := by
  simp only [execBsyn, Result.around_ite]
  rfl

theorem execEevp_around (npar : Byte) : execEevp npar (s.around env) = Result.around (execEevp npar s) env := by
  simp only [execEevp, Result.around_ite]
  rfl

theorem execBcorr_around (bs dw : Byte) : execBcorr bs dw (s.around env) = Result.around (execBcorr bs dw s) env := by
  simp only [execBcorr, Result.around_ite]
  rfl

theorem execVers_around (size : Byte) : execVers size (s.around env) = Result.around (execVers size s) env := by
  simp only [execVers, Result.around_ite]
  rfl

theorem execTake_around (n : Byte) : execTake n (s.around env) = Result.around (execTake n s) env := by
  simp only [execTake, Result.around_ite, field_around]
  cases s.field n.toNat <;> rfl

theorem execPayload_around : execPayload (s.around env) = Result.around (execPayload s) env := by
  have hfresh : (s.around env).freshRecord = s.freshRecord.around env := rfl
  simp only [execPayload, hfresh, finish_around, decodeStream_around, Result.around_ite]
  rfl

/-- An instruction means the same whatever the host's side, and passes it on. -/
theorem exec_around (i : Instr) : exec i (s.around env) = Result.around (exec i s) env := by
  cases i with
  | gflog f a => exact execGflog_around s env f a
  | bm f n => exact execBm_around s env f n
  | fcorr => exact execFcorr_around s env
  | bsyn bs npar => exact execBsyn_around s env bs npar
  | eevp npar => exact execEevp_around s env npar
  | bcorr bs dw => exact execBcorr_around s env bs dw
  | vers size => exact execVers_around s env size
  | take n => exact execTake_around s env n
  | payload => exact execPayload_around s env
  | nop | gfexp f idx | peval f ps x | padd f pd ps c shift | fsyn => rfl
  | segNum | segAlnum | segByte | segKanji =>
    simp only [exec, execSegNum, execSegAlnum, execSegByte, execSegKanji, dataTurn_around, settle_around, Result.around]
  | segEci => simp only [exec, execSegEci, eciTurn_around, settle_around, Result.around]
  | segEnd mode => exact congrArg _ (finish_around s env none)

/-! ### Steps -/

theorem runWord_around (w : Word) : runWord w (s.around env) = Result.around (runWord w s) env := by
  simp only [runWord, decode]
  cases decodeWord w with
  | ok i => exact exec_around s env i
  | error e => rfl

variable {s env}

/-- What a command word leaves is behind the host's side it found. -/
theorem runWord_next_around {w : Word} {t : State} (ht : runWord w s = .next t) : t.around s = t := by
  have hself := runWord_around s s w
  rw [State.around_self, ht] at hself
  exact (Host.Outcome.next.inj hself).symm

/-- A command word always answers, with the accesses left and the last answer as they were. -/
theorem runWord_next (w : Word) (s : State) :
    ∃ t, runWord w s = .next t ∧ t.inbox = s.inbox ∧ t.response = s.response := by
  have hnext : ∃ t, runWord w s = .next t := by
    simp only [runWord, decode]
    cases hd : decodeWord w with
    | error e => exact ⟨_, rfl⟩
    | ok i =>
      have hend := exec_end (isCommand_of_decodeWord hd) s
      dsimp only
      generalize exec i s = r at hend ⊢
      cases hend <;> exact ⟨_, rfl⟩
  obtain ⟨t, ht⟩ := hnext
  refine ⟨t, ht, ?_⟩
  rw [← runWord_next_around ht]
  exact ⟨rfl, rfl⟩

/-- A write of any word to `CMD` is done, whatever the word makes the engine do (10_state.md R11). -/
theorem step_write_cmd {v : Word} {rest : List HostAccess} (hin : s.inbox = .write 0 .w32 v :: rest) :
    ∃ t, step s = .next t ∧ t.response = some .done ∧ t.inbox = rest := by
  obtain ⟨t, ht, hinbox, hresponse⟩ := runWord_next v (({ s with inbox := rest } : State).respond .done)
  rw [step_of_inbox hin, access_write_cmd, runEffect]
  exact ⟨t, ht, hresponse, hinbox⟩

theorem step_write_legal {off : BitVec 16} {w : AccessWidth} {v : Word} {rest : List HostAccess}
    (hin : s.inbox = .write off w v :: rest) (hlegal : LegalWrite s.cfg off w) :
    ∃ t, step s = .next t ∧ t.response = some .done ∧ t.inbox = rest := by
  obtain ⟨t, ht, hw⟩ := legalWrite_iff.1 hlegal
  by_cases hcmd : t = .reg .cmd
  · subst hcmd
    obtain ⟨rfl, hreg⟩ := target_eq_reg.1 ht
    obtain rfl : off = 0 := eq_of_regAt hreg
    exact step_write_cmd hin
  · exact ⟨_, step_write hin ht hw hcmd, rfl, by simp⟩

/-- Settles O49: a read or a write has a target exactly where R44 allows it. -/
theorem onlyLegalAccessesReachTheEngine : Obligations.OnlyLegalAccessesReachTheEngine := by
  intro s rest off w
  refine ⟨fun hin => ⟨fun hlegal => ?_, fun hno => ?_⟩, fun v hin => ⟨step_write_legal hin, fun hno => ?_⟩⟩
  · obtain ⟨t, ht⟩ := exists_target_of_legalRead hlegal
    exact ⟨_, step_read hin ht⟩
  · rw [step_of_inbox hin, State.access, hostRead_of_not_legal (s := { s with inbox := rest }) hno, runEffect,
      State.busError, State.respond]
  · rw [step_of_inbox hin, State.access, hostWrite_of_not_legal (s := { s with inbox := rest }) hno, runEffect,
      State.busError, State.respond]

/-! ### Another `BASE` -/

/-- The same engine at another bus address. -/
def State.rebase (s : State) (b : Nat) : State := { s with cfg := { s.cfg with base := b } }

/-- The same effect on an engine at another bus address. -/
def WriteEffect.rebase : WriteEffect → Nat → WriteEffect
  | .finished s, b => .finished (s.rebase b)
  | .command w s, b => .command w (s.rebase b)

/-- Offsets are relative to `BASE` (R40). -/
theorem target_rebase (s : State) (b : Nat) (off : BitVec 16) (w : AccessWidth) :
    target (s.rebase b).cfg off w = target s.cfg off w := rfl

theorem writeReg_rebase (s : State) (b : Nat) (v : Word) (r : RegName) :
    (s.rebase b).writeReg v r = (s.writeReg v r).rebase b := by
  cases r <;> rfl

theorem access_rebase (s : State) (b : Nat) (a : HostAccess) : (s.rebase b).access a = (s.access a).rebase b := by
  cases a with
  | read off w =>
    simp only [State.access, State.hostRead, target_rebase]
    cases target s.cfg off w <;> rfl
  | write off w v =>
    simp only [State.access, State.hostWrite, target_rebase, writeReg_rebase]
    cases target s.cfg off w with
    | none => rfl
    | some t =>
      cases t with
      | reg r =>
        dsimp only
        split <;> rfl
      | poly i | cw i | data i | payload i => rfl

theorem runWord_rebase {w : Word} {t : State} (b : Nat) (ht : runWord w s = .next t) :
    runWord w (s.rebase b) = .next (t.rebase b) := by
  have hpass : t.around (s.rebase b) = t.rebase b := by
    rw [← runWord_next_around ht]
    rfl
  calc runWord w (s.rebase b) = Result.around (runWord w s) (s.rebase b) := runWord_around s (s.rebase b) w
    _ = .next (t.rebase b) := by rw [ht, Result.around, hpass]

theorem runEffect_rebase {e : WriteEffect} {t : State} (b : Nat) (ht : runEffect e = .next t) :
    runEffect (e.rebase b) = .next (t.rebase b) := by
  cases e with
  | finished u =>
    cases ht
    rfl
  | command w u => exact runWord_rebase b ht

/-- Settles O59: the access reaches the same target, and what it issues reads no `BASE`. -/
theorem baseChangesNoBehaviour : Obligations.BaseChangesNoBehaviour := by
  intro s t b ht
  change step (s.rebase b) = .next (t.rebase b)
  cases hin : s.inbox with
  | nil =>
    simp only [step, hin] at ht
    cases ht
    simp only [step, State.rebase, hin]
  | cons a rest =>
    have hin' : (s.rebase b).inbox = a :: rest := hin
    rw [step_of_inbox hin] at ht
    rw [step_of_inbox hin']
    exact (congrArg runEffect (access_rebase _ b a)).trans (runEffect_rebase b ht)

end Sys2Proof.Machine
end

section
/-!
The codec (30_encoding.md R60 to R65). A command word is its seven fields, so the decoder's test field by field and the
mask and match of R61 are one relation, `Opcode.Matches`, and a word that an opcode matches is the encoding of what it
reads as. A segment has nothing but its indicator.
-/

namespace Sys2Proof

open Sys2Proof.Stmt

/-! ### A word is its fields -/

theorem append_fields (w : Word) :
    bField w ++ aField w ++ bit15Field w ++ psField w ++ pdField w ++ fField w ++ opField w = w := by
  have join (start₁ len₁ len₂ : Nat) :
      w.extractLsb' (start₁ + len₁) len₂ ++ w.extractLsb' start₁ len₁ = w.extractLsb' start₁ (len₂ + len₁) :=
    BitVec.extractLsb'_append_extractLsb'_eq_extractLsb' rfl
  have hba : bField w ++ aField w = w.extractLsb' 16 16 := join 16 8 8
  have hbit15 : w.extractLsb' 16 16 ++ bit15Field w = w.extractLsb' 15 17 := join 15 1 16
  have hps : w.extractLsb' 15 17 ++ psField w = w.extractLsb' 12 20 := join 12 3 17
  have hpd : w.extractLsb' 12 20 ++ pdField w = w.extractLsb' 9 23 := join 9 3 20
  have hf : w.extractLsb' 9 23 ++ fField w = w.extractLsb' 8 24 := join 8 1 23
  have hop : w.extractLsb' 8 24 ++ opField w = w.extractLsb' 0 32 := join 0 8 24
  rw [hba, hbit15, hps, hpd, hf, hop]
  exact BitVec.extractLsb'_eq_self

theorem word_eq_iff_fields_eq (w v : Word) :
    w = v ↔ opField w = opField v ∧ bit15Field w = bit15Field v ∧ fField w = fField v ∧ pdField w = pdField v ∧
      psField w = psField v ∧ aField w = aField v ∧ bField w = bField v := by
  constructor
  · rintro rfl
    exact ⟨rfl, rfl, rfl, rfl, rfl, rfl, rfl⟩
  · rintro ⟨hop, hbit, hf, hpd, hps, ha, hb⟩
    rw [← append_fields w, ← append_fields v, hop, hbit, hf, hpd, hps, ha, hb]

@[simp] theorem opField_and (w v : Word) : opField (w &&& v) = opField w &&& opField v := BitVec.extractLsb'_and
@[simp] theorem fField_and (w v : Word) : fField (w &&& v) = fField w &&& fField v := BitVec.extractLsb'_and
@[simp] theorem pdField_and (w v : Word) : pdField (w &&& v) = pdField w &&& pdField v := BitVec.extractLsb'_and
@[simp] theorem psField_and (w v : Word) : psField (w &&& v) = psField w &&& psField v := BitVec.extractLsb'_and
@[simp] theorem bit15Field_and (w v : Word) : bit15Field (w &&& v) = bit15Field w &&& bit15Field v :=
  BitVec.extractLsb'_and
@[simp] theorem aField_and (w v : Word) : aField (w &&& v) = aField w &&& aField v := BitVec.extractLsb'_and
@[simp] theorem bField_and (w v : Word) : bField (w &&& v) = bField w &&& bField v := BitVec.extractLsb'_and

/-! ### Opcodes -/

theorem code_injective : Function.Injective Opcode.code := fun o o' h =>
  Option.some.inj (by rw [← opcodeOf_code o, h, opcodeOf_code])

theorem opcodeOf_eq_some_iff {op : Byte} {o : Opcode} : opcodeOf op = some o ↔ op = o.code := by
  constructor
  · intro h
    have hcode : (o.code == op) = true := List.find?_some (p := fun o : Opcode => o.code == op) h
    exact (beq_iff_eq.1 hcode).symm
  · rintro rfl
    exact opcodeOf_code o

/-- What R61 asks of a legal word, field by field. -/
structure Opcode.Matches (o : Opcode) (w : Word) : Prop where
  op : opField w = o.code
  bit15 : bit15Field w = 0
  f : o.uses .fieldF = false → fField w = 0
  pd : o.uses .fieldPD = false → pdField w = 0
  ps : o.uses .fieldPS = false → psField w = 0
  a : o.uses .fieldA = false → aField w = 0
  b : o.uses .fieldB = false → bField w = 0

theorem Opcode.matches_iff {o : Opcode} {w : Word} :
    o.Matches w ↔ opField w = o.code ∧ bit15Field w = 0 ∧ (o.uses .fieldF = false → fField w = 0) ∧
      (o.uses .fieldPD = false → pdField w = 0) ∧ (o.uses .fieldPS = false → psField w = 0) ∧
      (o.uses .fieldA = false → aField w = 0) ∧ (o.uses .fieldB = false → bField w = 0) :=
  ⟨fun ⟨hop, hbit, hf, hpd, hps, ha, hb⟩ => ⟨hop, hbit, hf, hpd, hps, ha, hb⟩,
    fun ⟨hop, hbit, hf, hpd, hps, ha, hb⟩ => ⟨hop, hbit, hf, hpd, hps, ha, hb⟩⟩

theorem Opcode.Matches.unique {o o' : Opcode} {w : Word} (h : o.Matches w) (h' : o'.Matches w) : o = o' :=
  code_injective (h.op.symm.trans h'.op)

/-! ### The decoder's test -/

theorem unusedFieldError_eq_none_iff {o : Opcode} {w : Word} (hop : opField w = o.code) :
    unusedFieldError o w = none ↔ o.Matches w := by
  simp only [unusedFieldError, ite_eq_right_iff, ite_eq_iff, reduceCtorEq, and_false, false_or, ne_eq, not_not,
    Bool.and_eq_true, Bool.not_eq_true', bne_iff_ne, not_and, imp_false, Opcode.matches_iff, hop, true_and]

theorem decodeWord_eq_ok_iff {w : Word} {i : Instr} :
    decodeWord w = .ok i ↔ ∃ o : Opcode, o.Matches w ∧ o.instr w = i := by
  constructor
  · intro h
    unfold decodeWord at h
    split at h
    · cases h
    next o ho =>
      split at h
      · cases h
      next hu =>
        exact ⟨o, (unusedFieldError_eq_none_iff (opcodeOf_eq_some_iff.1 ho)).1 hu, Except.ok.inj h⟩
  · rintro ⟨o, hm, rfl⟩
    have ho := opcodeOf_eq_some_iff.2 hm.op
    have hu := (unusedFieldError_eq_none_iff hm.op).2 hm
    simp only [decodeWord, ho, hu]

/-! ### The mask and the match of R62, field by field -/

/-- A field the opcode uses is free under the mask, any other is fixed. -/
def maskField (used : Bool) (n : Nat) : BitVec n := if used then 0 else BitVec.allOnes n

theorem and_maskField_eq_zero_iff {n : Nat} (x : BitVec n) (used : Bool) :
    x &&& maskField used n = 0 ↔ (used = false → x = 0) := by
  cases used <;> simp [maskField]

theorem mask_fields (o : Opcode) :
    opField o.mask = BitVec.allOnes 8 ∧ bit15Field o.mask = BitVec.allOnes 1 ∧
    fField o.mask = maskField (o.uses .fieldF) 1 ∧ pdField o.mask = maskField (o.uses .fieldPD) 3 ∧
    psField o.mask = maskField (o.uses .fieldPS) 3 ∧ aField o.mask = maskField (o.uses .fieldA) 8 ∧
    bField o.mask = maskField (o.uses .fieldB) 8 := by
  cases o <;> decide

theorem pattern_eq_commandWord (o : Opcode) : o.pattern = commandWord o 0 0 0 0 0 := by
  cases o <;> decide

theorem and_mask_eq_pattern_iff {o : Opcode} {w : Word} : w &&& o.mask = o.pattern ↔ o.Matches w := by
  obtain ⟨hop, hbit, hf, hpd, hps, ha, hb⟩ := mask_fields o
  simp only [word_eq_iff_fields_eq, pattern_eq_commandWord, opField_and, bit15Field_and, fField_and, pdField_and,
    psField_and, aField_and, bField_and, opField_commandWord, bit15Field_commandWord, fField_commandWord,
    pdField_commandWord, psField_commandWord, aField_commandWord, bField_commandWord, hop, hbit, hf, hpd, hps, ha, hb,
    and_maskField_eq_zero_iff, BitVec.and_allOnes, Opcode.matches_iff]

/-- Settles O44: the decoder's test and the mask's are the same relation, in which the OP field names the opcode. -/
theorem decoderIsMaskAndMatch : Obligations.DecoderIsMaskAndMatch := by
  refine ⟨fun w i => ?_, fun w o o' h h' => ?_⟩
  · simp only [decode, decodeWord_eq_ok_iff, and_mask_eq_pattern_iff]
  · exact (and_mask_eq_pattern_iff.1 h).unique (and_mask_eq_pattern_iff.1 h')

/-! ### Encoding what a word reads as -/

@[simp] theorem bitOfField_fieldOfBit (b : BitVec 1) : bitOfField (fieldOfBit b) = b := by
  revert b
  decide

theorem Opcode.Matches.commandWord_fields {o : Opcode} {w : Word} (h : o.Matches w) :
    commandWord o (fField w) (pdField w) (psField w) (aField w) (bField w) = w := by
  rw [commandWord, ← h.op, ← h.bit15, append_fields]

/-- The encoder writes the fields the opcode uses, and 0 in the others. -/
theorem encode_instr (o : Opcode) (w : Word) :
    encode (o.instr w) = .cmd32 (commandWord o (if o.uses .fieldF then fField w else 0)
      (if o.uses .fieldPD then pdField w else 0) (if o.uses .fieldPS then psField w else 0)
      (if o.uses .fieldA then aField w else 0) (if o.uses .fieldB then bField w else 0)) := by
  cases o <;> simp [Opcode.instr, encode, Opcode.uses]

theorem ite_used_eq_self {n : Nat} {used : Bool} {x : BitVec n} (h : used = false → x = 0) :
    (if used then x else 0) = x := by
  cases used with
  | true => rfl
  | false => exact (h rfl).symm

theorem Opcode.Matches.encode_eq {o : Opcode} {w : Word} (h : o.Matches w) : encode (o.instr w) = .cmd32 w := by
  rw [encode_instr, ite_used_eq_self h.f, ite_used_eq_self h.pd, ite_used_eq_self h.ps, ite_used_eq_self h.a,
    ite_used_eq_self h.b, h.commandWord_fields]

theorem wellFormed_instr (o : Opcode) (w : Word) : (o.instr w).wellFormed = true := by
  cases o <;> rfl

/-! ### Segments -/

theorem isSegmentMode_eq_false_iff {m : BitVec 4} :
    isSegmentMode m = false ↔ m ≠ 1 ∧ m ≠ 2 ∧ m ≠ 4 ∧ m ≠ 7 ∧ m ≠ 8 := by
  simp only [isSegmentMode, Bool.or_eq_false_iff, beq_eq_false_iff_ne, and_assoc]

/-- A mode indicator opens one of the five segments with fields, or it is one of the eleven that end the message. -/
theorem decodeSegment_cases {P : BitVec 4 → Instr → Prop} (num : P 1 .segNum) (alnum : P 2 .segAlnum)
    (byte : P 4 .segByte) (kanji : P 8 .segKanji) (eci : P 7 .segEci)
    (ends : ∀ m, isSegmentMode m = false → P m (.segEnd m)) (m : BitVec 4) : P m (decodeSegment m) := by
  unfold decodeSegment
  split_ifs with h1 h2 h4 h8 h7
  · exact h1 ▸ num
  · exact h2 ▸ alnum
  · exact h4 ▸ byte
  · exact h8 ▸ kanji
  · exact h7 ▸ eci
  · exact ends m (isSegmentMode_eq_false_iff.2 ⟨h1, h2, h4, h7, h8⟩)

theorem encode_decodeSegment (m : BitVec 4) : encode (decodeSegment m) = .seg4 m :=
  decodeSegment_cases (P := fun m i => encode i = .seg4 m) rfl rfl rfl rfl rfl (fun _ _ => rfl) m

theorem wellFormed_decodeSegment (m : BitVec 4) : (decodeSegment m).wellFormed = true :=
  decodeSegment_cases (P := fun _ i => i.wellFormed = true) rfl rfl rfl rfl rfl
    (fun m h => by rw [Instr.wellFormed, h, Bool.not_false]) m

theorem decodeSegment_of_end {m : BitVec 4} (h : isSegmentMode m = false) : decodeSegment m = .segEnd m := by
  obtain ⟨h1, h2, h4, h7, h8⟩ := isSegmentMode_eq_false_iff.1 h
  simp only [decodeSegment, h1, h2, h4, h7, h8, if_false]

theorem turn_of_end {m : BitVec 4} (h : isSegmentMode m = false) (s : Machine.State) :
    Machine.turn m s = Machine.endTurn m s := by
  obtain ⟨h1, h2, h4, h7, h8⟩ := isSegmentMode_eq_false_iff.1 h
  simp only [Machine.turn, h1, h2, h4, h7, h8, if_false]

/-! ### The round trips -/

/-- Settles O43. -/
theorem encodeInvertsDecode : Obligations.EncodeInvertsDecode := by
  intro c i h
  cases c with
  | cmd32 w =>
    obtain ⟨o, hm, rfl⟩ := decodeWord_eq_ok_iff.1 h
    exact ⟨hm.encode_eq, wellFormed_instr o w⟩
  | seg4 m =>
    cases h
    exact ⟨encode_decodeSegment m, wellFormed_decodeSegment m⟩

/-- An encoded command word has the legal form of R61 by its law, so it decodes to what its opcode reads. -/
theorem decode_commandWord {o : Opcode} {f : BitVec 1} {pd ps : PolyIdx} {a b : Byte} {i : Instr}
    (hform : ∃ o', opcodeOf (opField (commandWord o f pd ps a b)) = some o' ∧
      unusedFieldError o' (commandWord o f pd ps a b) = none)
    (hinstr : o.instr (commandWord o f pd ps a b) = i) : decode (.cmd32 (commandWord o f pd ps a b)) = .ok i := by
  obtain ⟨o', ho', hu⟩ := hform
  have hop := opcodeOf_eq_some_iff.1 ho'
  obtain rfl : o = o' := code_injective ((opField_commandWord o f pd ps a b).symm.trans hop)
  exact decodeWord_eq_ok_iff.2 ⟨o, (unusedFieldError_eq_none_iff hop).1 hu, hinstr⟩

/-- Settles O42: a command by its encoded form and its fields, a segment by its indicator. -/
theorem decodeInvertsEncode : Obligations.DecodeInvertsEncode := by
  intro i hwf
  cases i with
  | nop => exact decode_commandWord Laws.EncodedForm.nop rfl
  | gfexp f idx => exact decode_commandWord (Laws.EncodedForm.gfexp f idx) (by simp [Opcode.instr])
  | gflog f a => exact decode_commandWord (Laws.EncodedForm.gflog f a) (by simp [Opcode.instr])
  | peval f ps x => exact decode_commandWord (Laws.EncodedForm.peval f ps x) (by simp [Opcode.instr])
  | padd f pd ps c shift => exact decode_commandWord (Laws.EncodedForm.padd f pd ps c shift) (by simp [Opcode.instr])
  | bm f n => exact decode_commandWord (Laws.EncodedForm.bm f n) (by simp [Opcode.instr])
  | fsyn => exact decode_commandWord Laws.EncodedForm.fsyn rfl
  | fcorr => exact decode_commandWord Laws.EncodedForm.fcorr rfl
  | bsyn bs npar => exact decode_commandWord (Laws.EncodedForm.bsyn bs npar) (by simp [Opcode.instr])
  | eevp npar => exact decode_commandWord (Laws.EncodedForm.eevp npar) (by simp [Opcode.instr])
  | bcorr bs dw => exact decode_commandWord (Laws.EncodedForm.bcorr bs dw) (by simp [Opcode.instr])
  | vers size => exact decode_commandWord (Laws.EncodedForm.vers size) (by simp [Opcode.instr])
  | take n => exact decode_commandWord (Laws.EncodedForm.take n) (by simp [Opcode.instr])
  | payload => exact decode_commandWord Laws.EncodedForm.payload rfl
  | segNum | segAlnum | segByte | segKanji | segEci => rfl
  | segEnd m => exact congrArg Except.ok (decodeSegment_of_end (by simpa [Instr.wellFormed] using hwf))

/-- Settles O29. -/
theorem indicatorsDecodeToTheirTurn : Obligations.IndicatorsDecodeToTheirTurn := by
  intro m s
  refine ⟨rfl, ?_⟩
  exact decodeSegment_cases (P := fun m i => Machine.exec i s = .next (Machine.turn m s).settle) rfl rfl rfl rfl rfl
    (fun m h => by rw [turn_of_end h]; rfl) m

/-- Settles O41: the table of R77 beside its ASCII codes. -/
theorem alphabetIsAscii : Obligations.AlphabetIsAscii :=
  ⟨rfl, by decide, by decide, rfl⟩

theorem decodes_of_encode_eq {w : Word} {i : Instr} (hwf : i.wellFormed = true) (h : encode i = .cmd32 w) :
    Decodes w i := by
  rw [Decodes, ← h]
  exact decodeInvertsEncode i hwf

/-- Settles O45: each word of the table is the encoding of its command, and decoding inverts encoding. -/
theorem workedEncodingsDecode : Obligations.WorkedEncodingsDecode :=
  ⟨decodes_of_encode_eq rfl rfl, decodes_of_encode_eq rfl rfl, decodes_of_encode_eq rfl rfl,
    decodes_of_encode_eq rfl rfl, decodes_of_encode_eq rfl rfl, decodes_of_encode_eq rfl rfl,
    decodes_of_encode_eq rfl rfl, decodes_of_encode_eq rfl rfl, decodes_of_encode_eq rfl rfl,
    decodes_of_encode_eq rfl rfl⟩

end Sys2Proof
end

section
/-!
A command word as the sum of its fields at their places (30_encoding.md R60) is the word the encoder builds, so it
decodes to the instruction whose encoding it is.
-/

namespace Sys2Proof

open Sys2Proof.Stmt

theorem toNat_append_eq_add {m n : Nat} (x : BitVec m) (y : BitVec n) :
    (x ++ y).toNat = x.toNat * 2 ^ n + y.toNat := by
  rw [BitVec.toNat_append, ← Nat.shiftLeft_add_eq_or_of_lt y.isLt, Nat.shiftLeft_eq]

theorem toNat_bitOfField (f : GField) : (bitOfField f).toNat = fbit f := by cases f <;> rfl

theorem commandWord_eq_word (o : Opcode) (f : GField) (pd ps : PolyIdx) (a b : Byte) :
    commandWord o (bitOfField f) pd ps a b = word o.code.toNat (fbit f) pd.toNat ps.toNat a.toNat b.toNat := by
  have hsum : (commandWord o (bitOfField f) pd ps a b).toNat = o.code.toNat + 2 ^ 8 * fbit f + 2 ^ 9 * pd.toNat +
      2 ^ 12 * ps.toNat + 2 ^ 16 * a.toNat + 2 ^ 24 * b.toNat := by
    simp only [commandWord, toNat_append_eq_add, toNat_bitOfField, BitVec.ofNat_eq_ofNat, BitVec.toNat_ofNat]
    omega
  rw [word, ← hsum, BitVec.ofNat_toNat, BitVec.setWidth_eq]

/-- The word written as a sum decodes to the instruction whose encoding has those fields. -/
theorem decodes_word {i : Instr} {o : Opcode} {f : GField} {pd ps : PolyIdx} {a b : Byte} (hwf : i.wellFormed = true)
    (henc : encode i = .cmd32 (commandWord o (bitOfField f) pd ps a b)) :
    Decodes (word o.code.toNat (fbit f) pd.toNat ps.toNat a.toNat b.toNat) i :=
  decodes_of_encode_eq hwf (by rw [henc, commandWord_eq_word])

end Sys2Proof
end

section
/-!
The fields of 40_gf_primitives.md R80 to R88. The printed tables enter by three facts only: the recurrence of R82, and
that the two tables invert each other (R83). From these, the nonzero elements are the powers of x and multiplication adds
exponents. The product of residues is additive, and multiplying a factor by x multiplies it by x, so it agrees with the
tables; that carries additivity over to them.
-/

namespace Sys2Proof.Machine

open Sys2Proof.Stmt

variable {f : GField} {a b c : Byte}

/-! ### The tables -/

theorem gfExp_succ_of_lt (f : GField) : ∀ i < GField.p f, gfExp f (i + 1) = xtime f (gfExp f i) := by
  cases f <;> decide +kernel

theorem gfLog_gfExp_of_lt (f : GField) : ∀ i < GField.p f, gfLog f (gfExp f i) = some i := by
  cases f <;> decide +kernel

theorem gfExp_of_mem_gfLog (f : GField) : ∀ a, ∀ i ∈ gfLog f a, i < GField.p f ∧ gfExp f i = a := by
  cases f <;> decide +kernel

/-! ### Powers of x -/

theorem GField.p_pos (f : GField) : 0 < GField.p f := by cases f <;> decide

@[simp] theorem gfExp_zero (f : GField) : gfExp f 0 = 1 := by cases f <;> rfl

theorem gfExp_mod (f : GField) (k : Nat) : gfExp f (k % GField.p f) = gfExp f k := by
  cases f <;> simp only [gfExp, GField.p, Nat.mod_mod]

/-- Indices that agree mod p name the same power (R82). -/
theorem gfExp_congr {i j : Nat} (h : i % GField.p f = j % GField.p f) : gfExp f i = gfExp f j := by
  rw [← gfExp_mod, h, gfExp_mod]

theorem gfExp_succ (f : GField) (i : Nat) : gfExp f (i + 1) = xtime f (gfExp f i) := by
  rw [← gfExp_mod f i, ← gfExp_succ_of_lt f _ (Nat.mod_lt i (GField.p_pos f))]
  exact gfExp_congr (by rw [Nat.mod_add_mod])

theorem gfExp_mul_p (f : GField) (i : Nat) : gfExp f (i * GField.p f) = 1 := by
  rw [← gfExp_zero f]
  exact gfExp_congr (by rw [Nat.mul_mod_left, Nat.zero_mod])

/-! ### Logarithms -/

theorem gfLog_zero (f : GField) : gfLog f 0 = none := rfl

@[simp] theorem gfLog_gfExp (f : GField) (k : Nat) : gfLog f (gfExp f k) = some (k % GField.p f) := by
  rw [← gfExp_mod, gfLog_gfExp_of_lt f _ (Nat.mod_lt k (GField.p_pos f))]

theorem gfLog_eq_some_iff {i : Nat} : gfLog f a = some i ↔ i < GField.p f ∧ gfExp f i = a := by
  constructor
  · exact gfExp_of_mem_gfLog f a i
  · rintro ⟨hi, rfl⟩
    exact gfLog_gfExp_of_lt f i hi

theorem exists_gfLog_eq_some (hpos : 1 ≤ a.toNat) (hle : a.toNat ≤ GField.p f) : ∃ i, gfLog f a = some i := by
  unfold gfLog
  rw [if_pos ⟨hpos, hle⟩]
  cases f <;> exact ⟨_, rfl⟩

theorem gfExp_ne_zero (f : GField) (i : Nat) : gfExp f i ≠ 0 := by
  intro h
  have hlog := gfLog_gfExp f i
  rw [h, gfLog_zero] at hlog
  cases hlog

/-! ### Elements -/

theorem isElem_iff : IsElem f a ↔ a.toNat ≤ GField.p f := by
  cases f with
  | gf256 => exact ⟨fun _ => Nat.le_of_lt_succ a.isLt, fun _ => trivial⟩
  | gf16 => exact Nat.lt_succ_iff

theorem isElem_elem (f : GField) (a : Byte) : IsElem f (elem f a) := isElem_iff.2 (elem_toNat_le f a)

theorem isElem_zero (f : GField) : IsElem f 0 := isElem_iff.2 (Nat.zero_le _)

theorem isElem_xor (ha : IsElem f a) (hb : IsElem f b) : IsElem f (a ^^^ b) := by
  cases f with
  | gf256 => trivial
  | gf16 =>
    rw [IsElem, BitVec.toNat_xor]
    exact Nat.xor_lt_two_pow (n := 4) ha hb

/-- Every element is 0 or a power of x. -/
theorem eq_zero_or_eq_gfExp (ha : IsElem f a) : a = 0 ∨ ∃ i < GField.p f, a = gfExp f i := by
  by_cases h0 : a = 0
  · exact .inl h0
  · have hpos : 1 ≤ a.toNat := Nat.pos_of_ne_zero fun h => h0 (BitVec.eq_of_toNat_eq h)
    obtain ⟨i, hlog⟩ := exists_gfLog_eq_some hpos (isElem_iff.1 ha)
    obtain ⟨hi, hexp⟩ := gfLog_eq_some_iff.1 hlog
    exact .inr ⟨i, hi, hexp.symm⟩

theorem isElem_gfExp (f : GField) (i : Nat) : IsElem f (gfExp f i) := by
  have hlog := gfLog_gfExp f i
  unfold gfLog at hlog
  split at hlog
  next h => exact isElem_iff.2 h.2
  next => cases hlog

theorem isElem_one (f : GField) : IsElem f 1 := gfExp_zero f ▸ isElem_gfExp f 0

/-! ### Multiplication, division and power add, subtract and scale exponents (R86, R87) -/

theorem gfMul_gfExp (f : GField) (i j : Nat) : gfMul f (gfExp f i) (gfExp f j) = gfExp f (i + j) := by
  simp only [gfMul, gfLog_gfExp]
  exact gfExp_congr (Nat.add_mod i j _).symm

theorem gfMul_zero_left (f : GField) (b : Byte) : gfMul f 0 b = 0 := by simp only [gfMul, gfLog_zero]

theorem gfMul_comm (f : GField) (a b : Byte) : gfMul f a b = gfMul f b a := by
  unfold gfMul
  cases gfLog f a with
  | none => cases gfLog f b <;> rfl
  | some i =>
    cases gfLog f b with
    | none => rfl
    | some j => exact congrArg (gfExp f) (Nat.add_comm i j)

theorem gfMul_zero_right (f : GField) (a : Byte) : gfMul f a 0 = 0 := by rw [gfMul_comm, gfMul_zero_left]

theorem isElem_gfMul (f : GField) (a b : Byte) : IsElem f (gfMul f a b) := by
  unfold gfMul
  split
  · exact isElem_gfExp f _
  · exact isElem_zero f

theorem gfMul_one_right (ha : IsElem f a) : gfMul f a 1 = a := by
  obtain rfl | ⟨i, -, rfl⟩ := eq_zero_or_eq_gfExp ha
  · exact gfMul_zero_left f 1
  · rw [← gfExp_zero f, gfMul_gfExp, Nat.add_zero]

theorem gfMul_assoc (ha : IsElem f a) (hb : IsElem f b) (hc : IsElem f c) :
    gfMul f (gfMul f a b) c = gfMul f a (gfMul f b c) := by
  obtain rfl | ⟨i, -, rfl⟩ := eq_zero_or_eq_gfExp ha
  · simp only [gfMul_zero_left]
  obtain rfl | ⟨j, -, rfl⟩ := eq_zero_or_eq_gfExp hb
  · simp only [gfMul_zero_left, gfMul_zero_right]
  obtain rfl | ⟨k, -, rfl⟩ := eq_zero_or_eq_gfExp hc
  · simp only [gfMul_zero_right]
  · simp only [gfMul_gfExp, Nat.add_assoc]

theorem gfDiv_gfExp {i j : Nat} (hi : i < GField.p f) (hj : j < GField.p f) :
    gfDiv f (gfExp f i) (gfExp f j) = gfExp f (i + GField.p f - j) := by
  simp only [gfDiv, gfLog_gfExp_of_lt f i hi, gfLog_gfExp_of_lt f j hj]

theorem gfDiv_zero_left (f : GField) (b : Byte) : gfDiv f 0 b = 0 := by simp only [gfDiv, gfLog_zero]

theorem gfMul_gfDiv_cancel (ha : IsElem f a) (hb : IsElem f b) (hne : b ≠ 0) : gfMul f (gfDiv f a b) b = a := by
  obtain rfl | ⟨j, hj, rfl⟩ := eq_zero_or_eq_gfExp hb
  · exact absurd rfl hne
  obtain rfl | ⟨i, hi, rfl⟩ := eq_zero_or_eq_gfExp ha
  · rw [gfDiv_zero_left, gfMul_zero_left]
  · rw [gfDiv_gfExp hi hj, gfMul_gfExp, Nat.sub_add_cancel (by omega)]
    exact gfExp_congr (Nat.add_mod_right i _)

@[simp] theorem gfPow_zero (f : GField) (a : Byte) : gfPow f a 0 = 1 := rfl

theorem gfPow_gfExp (f : GField) (i k : Nat) : gfPow f (gfExp f i) k = gfExp f (i * k) := by
  unfold gfPow
  split
  next h => rw [h, Nat.mul_zero, gfExp_zero]
  next => simp only [gfLog_gfExp]; exact gfExp_congr (Nat.mod_mul_mod i k _)

theorem gfPow_succ (ha : IsElem f a) (k : Nat) : gfPow f a (k + 1) = gfMul f (gfPow f a k) a := by
  obtain rfl | ⟨i, -, rfl⟩ := eq_zero_or_eq_gfExp ha
  · rw [gfMul_zero_right]
    rfl
  · rw [gfPow_gfExp, gfPow_gfExp, gfMul_gfExp, Nat.mul_succ]

theorem isElem_gfPow (ha : IsElem f a) (k : Nat) : IsElem f (gfPow f a k) := by
  cases k with
  | zero => exact isElem_one f
  | succ k => rw [gfPow_succ ha]; exact isElem_gfMul f _ _

/-! ### Sums -/

theorem gfSum_succ_left (n : Nat) (g : Nat → Byte) : gfSum (n + 1) g = g 0 ^^^ gfSum n (fun i => g (i + 1)) := by
  induction n with
  | zero => rw [gfSum_succ, gfSum_zero, gfSum_zero, BitVec.xor_comm]
  | succ n ih => rw [gfSum_succ, ih, gfSum_succ n, BitVec.xor_assoc]

theorem gfSum_congr {n : Nat} {g h : Nat → Byte} (heq : ∀ i < n, g i = h i) : gfSum n g = gfSum n h := by
  induction n with
  | zero => rfl
  | succ n ih => rw [gfSum_succ, gfSum_succ, ih fun i hi => heq i (by omega), heq n n.lt_succ_self]

theorem gfSum_xor (n : Nat) (g h : Nat → Byte) : gfSum n (fun i => g i ^^^ h i) = gfSum n g ^^^ gfSum n h := by
  induction n with
  | zero => simp
  | succ n ih => simp only [gfSum_succ, ih]; ac_rfl

theorem gfSum_eq_zero {n : Nat} {g : Nat → Byte} (h : ∀ i < n, g i = 0) : gfSum n g = 0 := by
  induction n with
  | zero => rfl
  | succ n ih => rw [gfSum_succ, ih fun i hi => h i (by omega), h n n.lt_succ_self]; rfl

theorem isElem_gfSum {n : Nat} {g : Nat → Byte} (h : ∀ i, IsElem f (g i)) : IsElem f (gfSum n g) := by
  induction n with
  | zero => exact isElem_zero f
  | succ n ih => rw [gfSum_succ]; exact isElem_xor ih (h n)

/-! ### The product of residues -/

theorem xtime_zero (f : GField) : xtime f 0 = 0 := by cases f <;> rfl

/-- A conditional summand is additive in its condition. -/
theorem ite_bne_eq_xor (p q : Bool) (v : Byte) :
    (if (p ^^ q) = true then v else 0) = (if p = true then v else 0) ^^^ (if q = true then v else 0) := by
  cases p <;> cases q <;> simp

theorem xtime_xor (f : GField) (a b : Byte) : xtime f (a ^^^ b) = xtime f a ^^^ xtime f b := by
  cases f <;> simp only [xtime, BitVec.shiftLeft_xor_distrib, BitVec.getLsbD_xor, ite_bne_eq_xor] <;> ac_rfl

theorem xtime_gfSum (f : GField) (n : Nat) (g : Nat → Byte) :
    xtime f (gfSum n g) = gfSum n (fun i => xtime f (g i)) := by
  induction n with
  | zero => exact xtime_zero f
  | succ n ih => rw [gfSum_succ, xtime_xor, ih, gfSum_succ]

theorem xtime_ite (f : GField) (p : Bool) (v : Byte) :
    xtime f (if p = true then v else 0) = if p = true then xtime f v else 0 := by
  cases p with
  | true => rfl
  | false => exact xtime_zero f

/-- The sum of `a x^i` over the set bits i of b, each bit a summand. -/
theorem polyMul_eq_gfSum (f : GField) (a b : Byte) :
    polyMul f a b = gfSum 8 (fun i => if b.getLsbD i then (xtime f)^[i] a else 0) := by
  have hstep : ∀ (i : Nat) (acc : Byte), (if b.getLsbD i then acc ^^^ (xtime f)^[i] a else acc) =
      acc ^^^ (if b.getLsbD i then (xtime f)^[i] a else 0) := fun i acc => by split <;> simp
  simp only [polyMul, gfSum, hstep]

theorem polyMul_xor_right (f : GField) (a b c : Byte) : polyMul f a (b ^^^ c) = polyMul f a b ^^^ polyMul f a c := by
  simp only [polyMul_eq_gfSum, BitVec.getLsbD_xor, ite_bne_eq_xor, gfSum_xor]

theorem polyMul_zero_right (f : GField) (a : Byte) : polyMul f a 0 = 0 := by
  rw [polyMul_eq_gfSum]
  exact gfSum_eq_zero fun i _ => by simp

theorem polyMul_zero_left (f : GField) (b : Byte) : polyMul f 0 b = 0 := by
  have hiter (i : Nat) : (xtime f)^[i] 0 = 0 := Function.iterate_fixed (xtime_zero f) i
  rw [polyMul_eq_gfSum]
  exact gfSum_eq_zero fun i _ => by rw [hiter, ite_self]

theorem polyMul_one_right (f : GField) (a : Byte) : polyMul f a 1 = a := by
  rw [polyMul_eq_gfSum, gfSum_succ_left, gfSum_eq_zero]
  · simp
  · intro i _
    simp

/-- Multiplying by x shifts the other factor's bits up; the bit that leaves the byte contributes `a x^8`. -/
theorem xtime_polyMul (f : GField) (a b : Byte) :
    xtime f (polyMul f a b) = polyMul f a (b <<< 1) ^^^ (if b.getLsbD 7 then (xtime f)^[8] a else 0) := by
  have hbottom : (b <<< 1).getLsbD 0 = false := by simp
  have hbit (i : Nat) (hi : i < 7) : (b <<< 1).getLsbD (i + 1) = b.getLsbD i := by
    rw [BitVec.getLsbD_shiftLeft]
    grind
  have hterms : xtime f (polyMul f a b) = gfSum 8 (fun i => if b.getLsbD i then (xtime f)^[i + 1] a else 0) := by
    simp only [polyMul_eq_gfSum, xtime_gfSum, xtime_ite, ← Function.iterate_succ_apply' (xtime f)]
  have hshifted : polyMul f a (b <<< 1) = gfSum 7 (fun i => if b.getLsbD i then (xtime f)^[i + 1] a else 0) := by
    rw [polyMul_eq_gfSum, gfSum_succ_left, hbottom, if_neg Bool.false_ne_true]
    exact BitVec.zero_xor.trans (gfSum_congr fun i hi => by rw [hbit i hi])
  rw [hterms, hshifted, gfSum_succ]

/-- `x^8` is `x^4 + x^3 + x^2 + 1` modulo 0x11D. -/
theorem polyMul_gf256_reduction : ∀ a, polyMul .gf256 a 0x1D = (xtime .gf256)^[8] a := by decide +kernel

/-- 0x13 is 0 modulo itself. -/
theorem polyMul_gf16_reduction : ∀ a : Byte, a.toNat < 16 → polyMul .gf16 a 0x13 = 0 := by decide +kernel

theorem polyMul_ite_right (f : GField) (p : Bool) (a v : Byte) :
    polyMul f a (if p = true then v else 0) = if p = true then polyMul f a v else 0 := by
  cases p with
  | true => rfl
  | false => exact polyMul_zero_right f a

theorem polyMul_xtime (ha : IsElem f a) (hb : IsElem f b) : polyMul f a (xtime f b) = xtime f (polyMul f a b) := by
  cases f with
  | gf256 => rw [xtime_polyMul, xtime, polyMul_xor_right, polyMul_ite_right, polyMul_gf256_reduction]
  | gf16 =>
    have htop : b.getLsbD 7 = false := Nat.testBit_lt_two_pow (lt_trans hb (by decide))
    rw [xtime_polyMul, xtime, polyMul_xor_right, polyMul_ite_right, polyMul_gf16_reduction a ha, htop]
    simp

theorem polyMul_gfExp (f : GField) (i j : Nat) : polyMul f (gfExp f i) (gfExp f j) = gfExp f (i + j) := by
  induction j with
  | zero => rw [gfExp_zero, polyMul_one_right, Nat.add_zero]
  | succ j ih => rw [gfExp_succ, polyMul_xtime (isElem_gfExp f i) (isElem_gfExp f j), ih, ← gfExp_succ, Nat.add_assoc]

/-- Table multiplication is the product of residues: both add exponents on powers of x, and both are 0 at 0. -/
theorem gfMul_eq_polyMul (ha : IsElem f a) (hb : IsElem f b) : gfMul f a b = polyMul f a b := by
  obtain rfl | ⟨i, -, rfl⟩ := eq_zero_or_eq_gfExp ha
  · rw [gfMul_zero_left, polyMul_zero_left]
  obtain rfl | ⟨j, -, rfl⟩ := eq_zero_or_eq_gfExp hb
  · rw [gfMul_zero_right, polyMul_zero_right]
  · rw [gfMul_gfExp, polyMul_gfExp]

theorem gfMul_xor_right (ha : IsElem f a) (hb : IsElem f b) (hc : IsElem f c) :
    gfMul f a (b ^^^ c) = gfMul f a b ^^^ gfMul f a c := by
  rw [gfMul_eq_polyMul ha (isElem_xor hb hc), polyMul_xor_right, gfMul_eq_polyMul ha hb, gfMul_eq_polyMul ha hc]

theorem gfMul_gfSum (hc : IsElem f c) (n : Nat) {g : Nat → Byte} (hg : ∀ i, IsElem f (g i)) :
    gfMul f c (gfSum n g) = gfSum n (fun i => gfMul f c (g i)) := by
  induction n with
  | zero => exact gfMul_zero_right f c
  | succ n ih => rw [gfSum_succ, gfMul_xor_right hc (isElem_gfSum hg) (hg n), ih, gfSum_succ]

/-! ### The statements about the fields -/

/-- Settles O1: the recurrence for every index, and x a generator since its powers below p have distinct logarithms. -/
theorem expTableFollowsRecurrence : Obligations.ExpTableFollowsRecurrence := by
  intro f
  refine ⟨gfExp_zero f, gfExp_succ f, fun k => (gfExp_mod f k).symm, ?_, fun i hpos hi hone => ?_⟩
  · simpa using gfExp_mul_p f 1
  · have hlog := gfLog_gfExp_of_lt f i hi
    rw [hone, ← gfExp_zero f, gfLog_gfExp, Nat.zero_mod] at hlog
    exact hpos.ne (Option.some.inj hlog)

/-- Settles O2: the two tables invert each other. -/
theorem logIsTheUniqueExponent : Obligations.LogIsTheUniqueExponent := by
  intro f a
  refine ⟨fun i => gfLog_eq_some_iff, exists_gfLog_eq_some, ?_, gfLog_zero f, fun s => ?_⟩
  · exact gfLog_eq_some_iff.2 ⟨GField.p_pos f, gfExp_zero f⟩
  · cases f <;> rfl

/-- Settles O3. -/
theorem gfMulIsPolynomialProduct : Obligations.GfMulIsPolynomialProduct := by
  intro f a b ha hb
  refine ⟨?_, fun i j hi hj => ?_, gfMul_eq_polyMul ha hb⟩
  · rintro (rfl | rfl)
    · exact gfMul_zero_left f b
    · exact gfMul_zero_right f a
  · simp only [gfMul, hi, hj, gfExp_mod]

/-- Settles O4: the laws of exponents, and additivity from the product of residues. -/
theorem fieldArithmeticLaws : Obligations.FieldArithmeticLaws := by
  intro f a b c ha hb hc
  refine ⟨gfMul_comm f a b, gfMul_assoc ha hb hc, gfMul_xor_right ha hb hc, gfMul_one_right ha, gfMul_zero_right f a,
    gfMul_gfDiv_cancel ha hb, fun hne => ?_⟩
  obtain rfl | ⟨i, -, rfl⟩ := eq_zero_or_eq_gfExp ha
  · exact absurd rfl hne
  · rw [gfPow_gfExp, gfExp_mul_p]

end Sys2Proof.Machine
end

section
/-!
The Galois-field commands (40_gf_primitives.md R89 to R95): the words that name them, and their effect on the state.
-/

namespace Sys2Proof.Machine

open Sys2Proof.Stmt

/-! ### Horner's rule -/

theorem horner_succ (f : GField) (m : Nat) (c : Nat → Byte) (x : Byte) :
    horner f (m + 1) c x = gfMul f (horner f m (fun i => c (i + 1)) x) x ^^^ elem f (c 0) := by
  simp only [horner, List.range_succ_eq_map, List.foldr_cons, List.foldr_map]

/-- Horner's rule gives the sum of the terms `c_i x^i` (R92). -/
theorem horner_eq_gfSum {f : GField} {x : Byte} (hx : IsElem f x) (m : Nat) (c : Nat → Byte) :
    horner f m c x = gfSum m (fun i => gfMul f (elem f (c i)) (gfPow f x i)) := by
  induction m generalizing c with
  | zero => rfl
  | succ m ih =>
    have hterm (i : Nat) : gfMul f x (gfMul f (elem f (c (i + 1))) (gfPow f x i)) =
        gfMul f (elem f (c (i + 1))) (gfPow f x (i + 1)) := by
      rw [gfMul_comm, gfMul_assoc (isElem_elem f _) (isElem_gfPow hx i) hx, gfPow_succ hx]
    rw [horner_succ, ih, gfMul_comm, gfMul_gfSum hx m fun i => isElem_gfMul f _ _, gfSum_succ_left, gfPow_zero,
      gfMul_one_right (isElem_elem f _), BitVec.xor_comm]
    simp only [hterm]

theorem peval_getPoly (f : GField) (s : State) (n : Nat) (x : Byte) (hx : IsElem f x) :
    peval f s.cfg.maxPoly (s.getPoly n) x =
      if x = 0 then 0#8 else horner f s.cfg.maxPoly (fun i => coefAt s.poly s.cfg.maxPoly n i) x := by
  unfold peval
  split
  · rfl
  · rw [horner_eq_gfSum hx]
    refine gfSum_congr fun i hi => ?_
    rw [State.coeff_getPoly, if_pos hi, State.polyByte_eq, coefAt]

/-! ### A polynomial register written -/

theorem setPoly_polyFrame (s : State) (n : Nat) (p : List Byte) :
    PolyFrame s.poly (s.setPoly n p).poly s.cfg.maxPoly [n] := by
  intro a hout
  rw [State.setPoly_read, if_neg]
  have := hout n (by simp)
  omega

theorem coefAt_setPoly (s : State) (n : Nat) (p : List Byte) {q : Nat} (hq : q < s.cfg.maxPoly) :
    coefAt (s.setPoly n p).poly s.cfg.maxPoly n q = coeff p q :=
  State.setPoly_polyByte_same s n p hq

/-- Position q of what PADD writes, in terms of the registers' bytes before it (R93). -/
theorem coeff_padd_getPoly (f : GField) (s : State) (pd ps : Nat) (c : Byte) (shift : Nat) {q : Nat}
    (hq : q < s.cfg.maxPoly) :
    coeff (padd f s.cfg.maxPoly (s.getPoly pd) (s.getPoly ps) c shift) q =
      if c ≠ 0 ∧ shift ≤ q then
        elem f (coefAt s.poly s.cfg.maxPoly pd q) ^^^ gfMul f (elem f (coefAt s.poly s.cfg.maxPoly ps (q - shift))) c
      else coefAt s.poly s.cfg.maxPoly pd q := by
  have hdst : coeff (s.getPoly pd) q = coefAt s.poly s.cfg.maxPoly pd q := by
    rw [State.coeff_getPoly, if_pos hq]; rfl
  have hsrc : coeff (s.getPoly ps) (q - shift) = coefAt s.poly s.cfg.maxPoly ps (q - shift) := by
    rw [State.coeff_getPoly, if_pos (by omega)]; rfl
  by_cases hc : c = 0
  · rw [hc, padd_zero_scale, hdst, if_neg (by simp)]
  · rw [coeff_padd f _ _ _ c shift q hc, if_pos hq, hdst, hsrc]
    by_cases hlt : q < shift
    · rw [if_pos hlt, if_neg (by omega)]
    · rw [if_neg hlt, if_pos ⟨hc, by omega⟩]

/-! ### The commands -/

theorem setRes_toNat (s : State) (v : Byte) : s.setRes v.toNat = { s with res := v.setWidth 32 } := by
  rw [State.setRes, BitVec.ofNat_toNat]

theorem exec_gfexp (f : GField) (idx : Byte) (s : State) :
    exec (.gfexp f idx) s = .next (s.setRes (gfExp f idx.toNat).toNat).succeed := rfl

theorem exec_peval (f : GField) (ps : PolyIdx) (x : Byte) (s : State) :
    exec (.peval f ps x) s =
      .next (s.setRes (peval f s.cfg.maxPoly (s.getPoly ps.toNat) (elem f x)).toNat).succeed := rfl

/-- Settles O5. -/
theorem nopClearsErrAndIll : Obligations.NopClearsErrAndIll :=
  ⟨decodes_of_encode_eq rfl rfl, fun _ => rfl⟩

/-- Settles O6. -/
theorem gfexpLoadsTableEntry : Obligations.GfexpLoadsTableEntry := by
  intro f idx
  refine ⟨decodes_word (o := .gfexp) (pd := 0) (ps := 0) (b := 0) rfl rfl, fun s => ?_⟩
  rw [exec_gfexp, setRes_toNat, gfExp_mod, State.succeed]

theorem execGflog_of_gfLog {f : GField} {a : Byte} {i : Nat} (h : gfLog f (elem f a) = some i) (s : State) :
    execGflog f a s = .next (s.setRes i).succeed := by
  simp only [execGflog, h]

theorem execGflog_of_elem_eq_zero {f : GField} {a : Byte} (h : elem f a = 0) (s : State) :
    execGflog f a s = .next s.illegal := by
  simp only [execGflog, gfLog_elem_eq_none.2 h]

/-- Settles O7: an operand is 0, or it has a logarithm. -/
theorem gflogLoadsLogarithm : Obligations.GflogLoadsLogarithm := by
  intro f a
  refine ⟨decodes_word (o := .gflog) (pd := 0) (ps := 0) (b := 0) rfl rfl, execGflog_of_elem_eq_zero, fun hne => ?_⟩
  obtain h0 | ⟨i, hi, hexp⟩ := eq_zero_or_eq_gfExp (isElem_elem f a)
  · exact absurd h0 hne
  · exact ⟨i, hi, hexp.symm, execGflog_of_gfLog (gfLog_eq_some_iff.2 ⟨hi, hexp.symm⟩)⟩

/-- Settles O8: the sum of R92 is Horner's rule. -/
theorem pevalIsHornerAwayFromZero : Obligations.PevalIsHornerAwayFromZero := by
  intro f ps x
  refine ⟨decodes_word (o := .peval) (pd := 0) (b := 0) rfl rfl, fun s => ?_⟩
  rw [exec_peval, setRes_toNat, peval_getPoly f s _ _ (isElem_elem f x), State.succeed]

/-- Settles O9: one write of the whole destination register. -/
theorem paddAddsScaledShiftedSource : Obligations.PaddAddsScaledShiftedSource := by
  intro f pd ps c shift
  refine ⟨decodes_word (o := .padd) rfl rfl, fun s => ⟨_, rfl, setPoly_polyFrame s pd.toNat _, fun q hq => ?_⟩⟩
  rw [coefAt_setPoly s _ _ hq, coeff_padd_getPoly f s _ _ _ _ hq]

end Sys2Proof.Machine
end

section
/-!
Berlekamp–Massey over any field (41_reed_solomon.md R100), as polynomial congruences. `KeyPair` is what a run keeps: the
locator c solves the key equation modulo X^n, and d, the former locator scaled and shifted as the next update takes it,
fails it at X^n for the first time. It bounds the length of the run from below, and the solution is unique up to half
the number of syndromes.
-/

namespace Sys2Proof.Codes

open Polynomial

variable {K : Type} [Field K]

/-- A solution of the key equation for the syndrome polynomial s modulo X^n: a locator c of degree at most len, and the
part p of `c s` below len. -/
structure KeyEquation (s : K[X]) (n len : ℕ) (c p : K[X]) : Prop where
  constant : c.coeff 0 = 1
  locator_le : c.natDegree ≤ len
  evaluator_lt : p.degree < len
  congruent : X ^ n ∣ c * s - p

/-- What a run holds after n steps: a solution of length len, and a pair d, q that solves the equation below X^n and is
off by b there. -/
structure KeyPair (s : K[X]) (n len : ℕ) (c p d q : K[X]) (b : K) : Prop extends KeyEquation s n len c p where
  len_le : len ≤ n
  shifted : X ∣ d
  prev_le : d.natDegree ≤ n + 1 - len
  prev_evaluator_lt : q.degree < (n + 1 - len : ℕ)
  prev_congruent : X ^ (n + 1) ∣ d * s - q - C b * X ^ n
  mult_ne_zero : b ≠ 0

/-! ### Degrees and coefficients -/

theorem degree_mul_lt {p q : K[X]} {a b : ℕ} (hp : p.natDegree ≤ a) (hq : q.degree < b) :
    (p * q).degree < (a + b : ℕ) := by
  rw [degree_lt_iff_coeff_zero]
  intro k hk
  rw [coeff_mul]
  refine Finset.sum_eq_zero fun ij hij => ?_
  have hsum := Finset.HasAntidiagonal.mem_antidiagonal.1 hij
  by_cases hi : a < ij.1
  · rw [coeff_eq_zero_of_natDegree_lt (hp.trans_lt hi), zero_mul]
  · rw [(degree_lt_iff_coeff_zero q b).1 hq ij.2 (by omega), mul_zero]

theorem degree_sub_C_mul_lt {p q : K[X]} {a : ℕ} (hp : p.degree < a) (hq : q.degree < a) (e : K) :
    (p - C e * q).degree < a := by
  rw [← mem_degreeLT] at *
  rw [← smul_eq_C_mul]
  exact Submodule.sub_mem _ hp (Submodule.smul_mem _ e hq)

theorem natDegree_sub_C_mul_le {p q : K[X]} {a : ℕ} (hp : p.natDegree ≤ a) (hq : q.natDegree ≤ a) (e : K) :
    (p - C e * q).natDegree ≤ a :=
  (natDegree_sub_le_of_le hp ((natDegree_C_mul_le e q).trans hq)).trans (max_self a).le

theorem degree_X_mul_lt {q : K[X]} {a : ℕ} (hq : q.degree < a) : (X * q).degree < ((a + 1 : ℕ) : WithBot ℕ) := by
  rw [add_comm]
  exact degree_mul_lt natDegree_X.le hq

theorem natDegree_X_mul_le {q : K[X]} {a : ℕ} (hq : q.natDegree ≤ a) : (X * q).natDegree ≤ a + 1 := by
  rw [add_comm]
  exact natDegree_mul_le_of_le natDegree_X.le hq

/-- Below X^(n+1) there is one coefficient more than below X^n. -/
theorem X_pow_succ_dvd {g : K[X]} {n : ℕ} (h : X ^ n ∣ g) : X ^ (n + 1) ∣ g - C (g.coeff n) * X ^ n := by
  rw [X_pow_dvd_iff] at *
  intro k hk
  rw [coeff_sub, coeff_C_mul_X_pow]
  rcases Nat.lt_succ_iff_lt_or_eq.1 hk with hlt | rfl
  · rw [h k hlt, if_neg hlt.ne, sub_zero]
  · rw [if_pos rfl, sub_self]

/-- The coefficient of a product as a sum over the coefficients that a factor has. -/
theorem coeff_mul_eq_sum {c s : K[X]} {len k : ℕ} (hc : c.natDegree ≤ len) (hk : len ≤ k) :
    (c * s).coeff k = ∑ i ∈ Finset.range (len + 1), c.coeff i * s.coeff (k - i) := by
  rw [coeff_mul, Finset.Nat.sum_antidiagonal_eq_sum_range_succ fun i j => c.coeff i * s.coeff j]
  refine (Finset.sum_subset (Finset.range_subset_range.2 (by omega)) fun i _ hi => ?_).symm
  rw [coeff_eq_zero_of_natDegree_lt (hc.trans_lt (by simpa using hi)), zero_mul]

/-! ### A run -/

variable {s c p d q : K[X]} {n len : ℕ} {b : K}

/-- From len on, the locator's recurrence holds. -/
theorem KeyEquation.coeff_eq_zero (h : KeyEquation s n len c p) {k : ℕ} (hlen : len ≤ k) (hk : k < n) :
    (c * s).coeff k = 0 := by
  have hzero := X_pow_dvd_iff.1 h.congruent k hk
  rwa [coeff_sub, (degree_lt_iff_coeff_zero p len).1 h.evaluator_lt k hlen, sub_zero] at hzero

theorem keyPair_init (s : K[X]) : KeyPair s 0 0 1 0 X (-1) 1 where
  constant := coeff_one_zero
  locator_le := natDegree_one.le
  evaluator_lt := by simp
  congruent := by simp
  len_le := le_rfl
  shifted := dvd_rfl
  prev_le := natDegree_X.le
  prev_evaluator_lt := by simp
  prev_congruent := by simp
  mult_ne_zero := one_ne_zero

/-- The discrepancy is all by which the locator misses one congruence more. -/
theorem KeyPair.congruent_succ (h : KeyPair s n len c p d q b) :
    X ^ (n + 1) ∣ c * s - p - C ((c * s).coeff n) * X ^ n := by
  have hp := (degree_lt_iff_coeff_zero p len).1 h.evaluator_lt n h.len_le
  have hsucc := X_pow_succ_dvd h.congruent
  rwa [coeff_sub, hp, sub_zero] at hsucc

theorem KeyPair.prev_congruent_succ (h : KeyPair s n len c p d q b) :
    X ^ (n + 1 + 1) ∣ X * d * s - X * q - C b * X ^ (n + 1) := by
  have hmul : X * (d * s - q - C b * X ^ n) = X * d * s - X * q - C b * X ^ (n + 1) := by ring
  rw [pow_succ' X (n + 1), ← hmul]
  exact mul_dvd_mul_left X h.prev_congruent

/-- While the length stays, the former pair is shifted once more. -/
theorem KeyPair.shift (h : KeyPair s n len c p d q b) {c' p' : K[X]} (hkey : KeyEquation s (n + 1) len c' p') :
    KeyPair s (n + 1) len c' p' (X * d) (X * q) b where
  toKeyEquation := hkey
  len_le := h.len_le.trans n.le_succ
  shifted := Dvd.intro d rfl
  prev_le := Nat.sub_add_comm (h.len_le.trans n.le_succ) ▸ natDegree_X_mul_le h.prev_le
  prev_evaluator_lt := Nat.sub_add_comm (h.len_le.trans n.le_succ) ▸ degree_X_mul_lt h.prev_evaluator_lt
  prev_congruent := h.prev_congruent_succ
  mult_ne_zero := h.mult_ne_zero

/-- A step without a discrepancy. -/
theorem KeyPair.step_same (h : KeyPair s n len c p d q b) (hzero : (c * s).coeff n = 0) :
    KeyPair s (n + 1) len c p (X * d) (X * q) b :=
  h.shift { h.toKeyEquation with congruent := by simpa [hzero] using h.congruent_succ }

/-- The update of R100 removes the discrepancy, whatever becomes of the length. -/
theorem KeyPair.update (h : KeyPair s n len c p d q b) {len' : ℕ} (hlen : len ≤ len') (hprev : n + 1 - len ≤ len') :
    KeyEquation s (n + 1) len' (c - C ((c * s).coeff n / b) * d) (p - C ((c * s).coeff n / b) * q) where
  constant := by
    obtain ⟨d', rfl⟩ := h.shifted
    simp [h.constant]
  locator_le := natDegree_sub_C_mul_le (h.locator_le.trans hlen) (h.prev_le.trans hprev) _
  evaluator_lt :=
    degree_sub_C_mul_lt (h.evaluator_lt.trans_le (by exact_mod_cast hlen))
      (h.prev_evaluator_lt.trans_le (by exact_mod_cast hprev)) _
  congruent := by
    have hscale : C ((c * s).coeff n) = C ((c * s).coeff n / b) * C b := by
      rw [← C_mul, div_mul_cancel₀ _ h.mult_ne_zero]
    convert dvd_sub h.congruent_succ (h.prev_congruent.mul_left (C ((c * s).coeff n / b))) using 1
    rw [hscale]
    ring

/-- A step that keeps the length. -/
theorem KeyPair.step_keep (h : KeyPair s n len c p d q b) (hlen : n < 2 * len) :
    KeyPair s (n + 1) len (c - C ((c * s).coeff n / b) * d) (p - C ((c * s).coeff n / b) * q) (X * d) (X * q) b :=
  h.shift (h.update le_rfl (by omega))

/-- A step that changes the length: the locator so far becomes the former one. -/
theorem KeyPair.step_grow (h : KeyPair s n len c p d q b) (hlen : 2 * len ≤ n) (hd : (c * s).coeff n ≠ 0) :
    KeyPair s (n + 1) (n + 1 - len) (c - C ((c * s).coeff n / b) * d) (p - C ((c * s).coeff n / b) * q) (X * c) (X * p)
      ((c * s).coeff n) where
  toKeyEquation := h.update (by omega) le_rfl
  len_le := Nat.sub_le _ _
  shifted := Dvd.intro c rfl
  prev_le := (natDegree_X_mul_le h.locator_le).trans (by omega)
  prev_evaluator_lt := (degree_X_mul_lt h.evaluator_lt).trans_le (Nat.cast_le.2 (by omega))
  prev_congruent := by
    have hmul : X * (c * s - p - C ((c * s).coeff n) * X ^ n) =
        X * c * s - X * p - C ((c * s).coeff n) * X ^ (n + 1) := by ring
    rw [pow_succ' X (n + 1), ← hmul]
    exact mul_dvd_mul_left X h.congruent_succ
  mult_ne_zero := hd

/-! ### The run's length is minimal -/

/-- No solution is shorter than the run's: with one, d and its q would solve the equation at X^n too. -/
theorem KeyPair.len_le_of_keyEquation (h : KeyPair s n len c p d q b) {t : ℕ} {l w : K[X]} (hl : KeyEquation s n t l w) :
    len ≤ t := by
  by_contra hlt
  have hn := h.len_le
  have hdvd : X ^ (n + 1) ∣ d * w - l * q - C b * l * X ^ n := by
    have hone : X ^ (n + 1) ∣ d * (l * s - w) := pow_succ' (X : K[X]) n ▸ mul_dvd_mul h.shifted hl.congruent
    convert dvd_sub (h.prev_congruent.mul_left l) hone using 1
    ring
  have hcoeff := X_pow_dvd_iff.1 hdvd n n.lt_succ_self
  have hdw : (d * w).coeff n = 0 :=
    (degree_lt_iff_coeff_zero _ _).1 (degree_mul_lt h.prev_le hl.evaluator_lt) n (by omega)
  have hlq : (l * q).coeff n = 0 :=
    (degree_lt_iff_coeff_zero _ _).1 (degree_mul_lt hl.locator_le h.prev_evaluator_lt) n (by omega)
  have hb : (C b * l * X ^ n).coeff n = b := by
    simpa [hl.constant] using coeff_mul_X_pow (C b * l) n 0
  rw [coeff_sub, coeff_sub, hdw, hlq, hb] at hcoeff
  exact h.mult_ne_zero (by simpa using hcoeff)

/-- Two solutions whose lengths do not exceed n together are proportional. -/
theorem KeyEquation.cross_eq (h : KeyEquation s n len c p) {t : ℕ} {l w : K[X]} (hl : KeyEquation s n t l w)
    (hn : len + t ≤ n) : c * w = l * p := by
  have hdvd : X ^ n ∣ c * w - l * p := by
    convert dvd_sub (h.congruent.mul_left l) (hl.congruent.mul_left c) using 1
    ring
  have hcw := (degree_lt_iff_coeff_zero _ _).1 (degree_mul_lt h.locator_le hl.evaluator_lt)
  have hlp := (degree_lt_iff_coeff_zero _ _).1 (degree_mul_lt hl.locator_le h.evaluator_lt)
  rw [← sub_eq_zero]
  ext k
  rcases Nat.lt_or_ge k n with hk | hk
  · exact X_pow_dvd_iff.1 hdvd k hk
  · rw [coeff_sub, hcw k (by omega), hlp k (by omega), sub_self, coeff_zero]

end Sys2Proof.Codes
end

section
/-!
The locator and the evaluator of a set of errors over any field (41_reed_solomon.md R102, R107, R110): the errors' power
sums satisfy the key equation, a run that has seen twice as many of them as there are errors holds the locator, and at a
root the evaluator over the derivative is the error value.
-/

namespace Sys2Proof.Codes

open Polynomial

variable {K : Type} [Field K]

/-- The product of `1 - x_k X` over the error positions. -/
noncomputable def locator (I : Finset ℕ) (x : ℕ → K) : K[X] := ∏ k ∈ I, (1 - C (x k) * X)

/-- The sum of `e_k` times the product of `1 - x_l X` over the other positions. -/
noncomputable def evaluator (I : Finset ℕ) (x e : ℕ → K) : K[X] := ∑ k ∈ I, C (e k) * locator (I.erase k) x

/-- The errors' power sum i: what syndrome i of a word is when only the errors contribute. -/
def powerSum (I : Finset ℕ) (x e : ℕ → K) (i : ℕ) : K := ∑ k ∈ I, e k * x k ^ i

variable {I : Finset ℕ} {x e : ℕ → K}

theorem powerSum_succ (I : Finset ℕ) (x e : ℕ → K) (i : ℕ) :
    powerSum I x e (i + 1) = powerSum I x (fun k => e k * x k) i :=
  Finset.sum_congr rfl fun k _ => by ring

/-! ### Degrees and values -/

theorem locator_eq_mul_erase {k : ℕ} (hk : k ∈ I) : locator I x = (1 - C (x k) * X) * locator (I.erase k) x :=
  (Finset.mul_prod_erase I _ hk).symm

theorem coeff_zero_locator (I : Finset ℕ) (x : ℕ → K) : (locator I x).coeff 0 = 1 := by
  simp [locator, coeff_zero_prod]

theorem natDegree_locator_le (I : Finset ℕ) (x : ℕ → K) : (locator I x).natDegree ≤ I.card := by
  refine (natDegree_prod_le I _).trans ((Finset.sum_le_card_nsmul I _ 1 fun k _ => ?_).trans (by simp))
  have hlinear := (natDegree_C_mul_le (x k) X).trans natDegree_X.le
  exact (natDegree_sub_le_of_le natDegree_one.le hlinear).trans (max_eq_right zero_le_one).le

theorem degree_evaluator_lt (I : Finset ℕ) (x e : ℕ → K) : (evaluator I x e).degree < I.card := by
  rw [← mem_degreeLT]
  refine Submodule.sum_mem _ fun k hk => ?_
  rw [← smul_eq_C_mul]
  refine Submodule.smul_mem _ _ (mem_degreeLT.2 ?_)
  have hle := degree_le_of_natDegree_le (natDegree_locator_le (I.erase k) x)
  exact hle.trans_lt (Nat.cast_lt.2 (Finset.card_erase_lt_of_mem hk))

theorem eval_locator (I : Finset ℕ) (x : ℕ → K) (y : K) : (locator I x).eval y = ∏ k ∈ I, (1 - x k * y) := by
  simp [locator, eval_prod]

/-- The locator's roots are the inverses of the error locators. -/
theorem eval_locator_eq_zero_iff {y : K} (hy : y ≠ 0) : (locator I x).eval y⁻¹ = 0 ↔ ∃ k ∈ I, x k = y := by
  simp only [eval_locator, Finset.prod_eq_zero_iff, sub_eq_zero, eq_comm (a := (1 : K)), mul_inv_eq_one₀ hy]

theorem eval_locator_erase_ne_zero (hinj : Set.InjOn x I) {k : ℕ} (hk : k ∈ I) (hx : x k ≠ 0) :
    (locator (I.erase k) x).eval (x k)⁻¹ ≠ 0 := by
  rw [Ne, eval_locator_eq_zero_iff hx]
  rintro ⟨l, hl, heq⟩
  obtain ⟨hne, hmem⟩ := Finset.mem_erase.1 hl
  exact hne (hinj hmem hk heq)

/-- At the root of position k the summands of the other positions vanish. -/
theorem eval_evaluator {k : ℕ} (hk : k ∈ I) (hx : x k ≠ 0) :
    (evaluator I x e).eval (x k)⁻¹ = e k * (locator (I.erase k) x).eval (x k)⁻¹ := by
  rw [evaluator, eval_finsetSum, Finset.sum_eq_single_of_mem k hk]
  · rw [eval_mul, eval_C]
  · intro l _ hne
    rw [eval_mul, (eval_locator_eq_zero_iff hx).2 ⟨k, Finset.mem_erase.2 ⟨hne.symm, hk⟩, rfl⟩, mul_zero]

theorem derivative_locator (I : Finset ℕ) (x : ℕ → K) : derivative (locator I x) = evaluator I x (fun k => -x k) := by
  rw [locator, derivative_prod_finset]
  refine Finset.sum_congr rfl fun k _ => ?_
  rw [derivative_sub, derivative_one, derivative_C_mul_X, zero_sub, ← C_neg, mul_comm, locator]

/-- Forney's quotient (R110, R112). -/
theorem forney_quotient (hinj : Set.InjOn x I) {k : ℕ} (hk : k ∈ I) (hx : x k ≠ 0) :
    (derivative (locator I x)).eval (x k)⁻¹ ≠ 0 ∧
      (evaluator I x fun k => e k * x k).eval (x k)⁻¹ = -e k * (derivative (locator I x)).eval (x k)⁻¹ := by
  rw [derivative_locator, eval_evaluator hk hx, eval_evaluator hk hx]
  exact ⟨mul_ne_zero (neg_ne_zero.2 hx) (eval_locator_erase_ne_zero hinj hk hx), by ring⟩

/-! ### The key equation -/

/-- The power sums of one error are a geometric series. -/
theorem X_pow_dvd_sub_geometric {s : K[X]} {n : ℕ} (hs : ∀ i < n, s.coeff i = powerSum I x e i) :
    X ^ n ∣ s - ∑ k ∈ I, C (e k) * ∑ i ∈ Finset.range n, (C (x k) * X) ^ i := by
  rw [X_pow_dvd_iff]
  intro i hi
  have hterm (k : ℕ) : (C (e k) * ∑ j ∈ Finset.range n, (C (x k) * X) ^ j).coeff i = e k * x k ^ i := by
    simp only [mul_pow, ← C_pow, coeff_C_mul, finsetSum_coeff, coeff_X_pow, mul_ite, mul_one, mul_zero]
    rw [Finset.sum_ite_eq, if_pos (Finset.mem_range.2 hi)]
  rw [coeff_sub, hs i hi, finsetSum_coeff, Finset.sum_congr rfl fun k _ => hterm k, powerSum, sub_self]

/-- The errors' locator and evaluator solve the key equation of their power sums. -/
theorem keyEquation_locator {s : K[X]} {n : ℕ} (hs : ∀ i < n, s.coeff i = powerSum I x e i) :
    KeyEquation s n I.card (locator I x) (evaluator I x e) where
  constant := coeff_zero_locator I x
  locator_le := natDegree_locator_le I x
  evaluator_lt := degree_evaluator_lt I x e
  congruent := by
    have hgeom (k : ℕ) (hk : k ∈ I) : locator I x * (C (e k) * ∑ i ∈ Finset.range n, (C (x k) * X) ^ i) =
        C (e k) * locator (I.erase k) x - X ^ n * (C (e k) * locator (I.erase k) x * C (x k) ^ n) := by
      have hsum := mul_neg_geom_sum (C (x k) * X) n
      calc locator I x * (C (e k) * ∑ i ∈ Finset.range n, (C (x k) * X) ^ i)
          = C (e k) * locator (I.erase k) x * ((1 - C (x k) * X) * ∑ i ∈ Finset.range n, (C (x k) * X) ^ i) := by
            rw [locator_eq_mul_erase hk]
            ring
        _ = _ := by
            rw [hsum]
            ring
    have hdvd : X ^ n ∣ locator I x * (∑ k ∈ I, C (e k) * ∑ i ∈ Finset.range n, (C (x k) * X) ^ i) - evaluator I x e := by
      rw [Finset.mul_sum, Finset.sum_congr rfl hgeom, evaluator, ← Finset.sum_sub_distrib]
      refine Finset.dvd_sum fun k _ => ?_
      rw [sub_sub_cancel_left]
      exact (Dvd.intro _ rfl).neg_right
    convert dvd_add ((X_pow_dvd_sub_geometric hs).mul_left (locator I x)) hdvd using 1
    ring

/-- Fewer errors than syndromes leave a trace: a block with errors is not clean. -/
theorem eq_empty_of_powerSum_eq_zero {n : ℕ} (hs : ∀ i < n, powerSum I x e i = 0) (hn : I.card ≤ n)
    (hinj : Set.InjOn x I) (hx : ∀ k ∈ I, x k ≠ 0) (he : ∀ k ∈ I, e k ≠ 0) : I = ∅ := by
  have hkey : KeyEquation 0 n I.card (locator I x) (evaluator I x e) :=
    keyEquation_locator fun i hi => by rw [coeff_zero, hs i hi]
  have hzero : evaluator I x e = 0 := by
    ext i
    rcases Nat.lt_or_ge i n with hi | hi
    · simpa using X_pow_dvd_iff.1 hkey.congruent i hi
    · exact (degree_lt_iff_coeff_zero _ _).1 hkey.evaluator_lt i (hn.trans hi)
  refine Finset.eq_empty_of_forall_notMem fun k hk => ?_
  have heval := eval_evaluator (e := e) hk (hx k hk)
  rw [hzero, eval_zero] at heval
  exact mul_ne_zero (he k hk) (eval_locator_erase_ne_zero hinj hk (hx k hk)) heval.symm

/-- With at most half as many errors as syndromes the run ends with their locator: both have the inverse locators for
roots and the value 1 at 0, and no more degree than there are errors. -/
theorem KeyPair.eq_locator {s c p d q : K[X]} {n len : ℕ} {b : K} (h : KeyPair s n len c p d q b)
    (hs : ∀ i < n, s.coeff i = powerSum I x e i) (hn : 2 * I.card ≤ n)
    (hinj : Set.InjOn x I) (hx : ∀ k ∈ I, x k ≠ 0) (he : ∀ k ∈ I, e k ≠ 0) : c = locator I x := by
  classical
  have hkey := keyEquation_locator hs
  have hlen := h.len_le_of_keyEquation hkey
  have hcross := h.toKeyEquation.cross_eq hkey (by omega)
  have hroot (k : ℕ) (hk : k ∈ I) : c.eval (x k)⁻¹ = 0 := by
    have heval := congrArg (eval (x k)⁻¹) hcross
    rw [eval_mul, eval_mul, (eval_locator_eq_zero_iff (hx k hk)).2 ⟨k, hk, rfl⟩, zero_mul,
      eval_evaluator hk (hx k hk)] at heval
    exact (mul_eq_zero.1 heval).resolve_right
      (mul_ne_zero (he k hk) (eval_locator_erase_ne_zero hinj hk (hx k hk)))
  have hnot : (0 : K) ∉ I.image fun k => (x k)⁻¹ := by
    rw [Finset.mem_image]
    rintro ⟨k, hk, hzero⟩
    exact hx k hk (inv_eq_zero.1 hzero)
  have hcard : (insert 0 (I.image fun k => (x k)⁻¹)).card = I.card + 1 := by
    rw [Finset.card_insert_of_notMem hnot, Finset.card_image_of_injOn fun k hk l hl heq => hinj hk hl (inv_injective heq)]
  refine eq_of_degrees_lt_of_eval_finset_eq (insert 0 (I.image fun k => (x k)⁻¹)) ?_ ?_ ?_
  · rw [hcard]
    exact (degree_le_of_natDegree_le (h.locator_le.trans hlen)).trans_lt (Nat.cast_lt.2 I.card.lt_succ_self)
  · rw [hcard]
    exact (degree_le_of_natDegree_le hkey.locator_le).trans_lt (Nat.cast_lt.2 I.card.lt_succ_self)
  · intro y hy
    rcases Finset.mem_insert.1 hy with rfl | hy
    · rw [← coeff_zero_eq_eval_zero, ← coeff_zero_eq_eval_zero, h.constant, hkey.constant]
    · obtain ⟨k, hk, rfl⟩ := Finset.mem_image.1 hy
      rw [hroot k hk, (eval_locator_eq_zero_iff (hx k hk)).2 ⟨k, hk, rfl⟩]

end Sys2Proof.Codes
end

section
/-!
The elements of R80 to R88 as a field of Mathlib, and what the model's sums, products, powers and polynomials read as
there. `Reading` is all that the decoder's theory uses of the tables.
-/

namespace Sys2Proof.Machine

open Polynomial
open Sys2Proof.Stmt

/-! ### The elements are a field -/

theorem isElem_gfDiv (f : GField) (a b : Byte) : IsElem f (gfDiv f a b) := by
  unfold gfDiv
  split
  · exact isElem_gfExp f _
  · exact isElem_zero f

theorem elem_of_isElem {f : GField} {a : Byte} (h : IsElem f a) : elem f a = a := by
  cases f with
  | gf256 => rfl
  | gf16 =>
    have hmod : a.toNat &&& 15 = a.toNat := (Nat.and_two_pow_sub_one_eq_mod _ 4).trans (Nat.mod_eq_of_lt h)
    exact BitVec.eq_of_toNat_eq hmod

theorem elem_xor (f : GField) (a b : Byte) : elem f (a ^^^ b) = elem f a ^^^ elem f b := by
  cases f with
  | gf256 => rfl
  | gf16 =>
    ext i
    simp only [elem, BitVec.getElem_and, BitVec.getElem_xor, Bool.and_xor_distrib_right]

/-- The elements as a type. -/
def Element (f : GField) : Type := { a : Byte // IsElem f a }

/-- Addition is exclusive or (R81), multiplication and inverses are those of the tables (R86, R87). -/
@[reducible] def elementField (f : GField) : Field (Element f) :=
  letI : Zero (Element f) := ⟨⟨0, isElem_zero f⟩⟩
  letI : One (Element f) := ⟨⟨1, isElem_one f⟩⟩
  letI : Add (Element f) := ⟨fun a b => ⟨a.1 ^^^ b.1, isElem_xor a.2 b.2⟩⟩
  letI : Mul (Element f) := ⟨fun a b => ⟨gfMul f a.1 b.1, isElem_gfMul f _ _⟩⟩
  letI : Neg (Element f) := ⟨fun a => a⟩
  letI : Inv (Element f) := ⟨fun a => ⟨gfInv f a.1, isElem_gfDiv f _ _⟩⟩
  Field.ofMinimalAxioms (Element f)
    (add_assoc := fun a b c => Subtype.ext (BitVec.xor_assoc a.1 b.1 c.1))
    (zero_add := fun _ => Subtype.ext BitVec.zero_xor)
    (neg_add_cancel := fun _ => Subtype.ext BitVec.xor_self)
    (mul_assoc := fun a b c => Subtype.ext (gfMul_assoc a.2 b.2 c.2))
    (mul_comm := fun a b => Subtype.ext (gfMul_comm f a.1 b.1))
    (one_mul := fun a => Subtype.ext ((gfMul_comm f 1 a.1).trans (gfMul_one_right a.2)))
    (mul_inv_cancel := fun a ha => Subtype.ext ((gfMul_comm f _ _).trans
      (gfMul_gfDiv_cancel (isElem_one f) a.2 fun h => ha (Subtype.ext h))))
    (inv_zero := Subtype.ext (by cases f <;> rfl))
    (left_distrib := fun a b c => Subtype.ext (gfMul_xor_right a.2 b.2 c.2))
    (exists_pair_ne := ⟨0, 1, fun h => (by decide : (0 : Byte) ≠ 1) (congrArg Subtype.val h)⟩)

/-- Bytes read as elements of a field K: additive, multiplicative on elements, and 0 at nothing but 0. -/
structure Reading (f : GField) (K : Type) [Field K] where
  val : Byte → K
  val_xor (a b : Byte) : val (a ^^^ b) = val a + val b
  val_elem (a : Byte) : val (elem f a) = val a
  val_one : val 1 = 1
  val_mul {a b : Byte} (ha : IsElem f a) (hb : IsElem f b) : val (gfMul f a b) = val a * val b
  eq_zero {a : Byte} (ha : IsElem f a) (h : val a = 0) : a = 0

theorem exists_reading (f : GField) : ∃ (K : Type) (_ : Field K), Nonempty (Reading f K) :=
  letI := elementField f
  ⟨Element f, elementField f,
    ⟨{ val := fun a => ⟨elem f a, isElem_elem f a⟩
       val_xor := fun a b => Subtype.ext (elem_xor f a b)
       val_elem := fun a => Subtype.ext (elem_of_isElem (isElem_elem f a))
       val_one := Subtype.ext (elem_of_isElem (isElem_one f))
       val_mul := fun {a b} ha hb => Subtype.ext (by
        show elem f (gfMul f a b) = gfMul f (elem f a) (elem f b)
        rw [elem_of_isElem ha, elem_of_isElem hb, elem_of_isElem (isElem_gfMul f a b)])
       eq_zero := fun ha h => (elem_of_isElem ha).symm.trans (congrArg Subtype.val h) }⟩⟩

namespace Reading

variable {f : GField} {K : Type} [Field K] (r : Reading f K)

/-! ### Arithmetic -/

theorem val_zero : r.val 0 = 0 := by
  have h : r.val 0 = r.val 0 + r.val 0 := r.val_xor 0 0
  exact left_eq_add.1 h

include r in
theorem add_self (y : K) : y + y = 0 := by
  have h : r.val 0 = r.val 1 + r.val 1 := r.val_xor 1 1
  rw [r.val_zero, r.val_one, one_add_one_eq_two] at h
  rw [← two_mul, ← h, zero_mul]

include r in
theorem neg_eq (y : K) : -y = y := neg_eq_of_add_eq_zero_left (r.add_self y)

theorem val_xor_sub (a b : Byte) : r.val (a ^^^ b) = r.val a - r.val b := by
  rw [r.val_xor, sub_eq_add_neg, r.neg_eq]

theorem val_eq_zero_iff {a : Byte} (ha : IsElem f a) : r.val a = 0 ↔ a = 0 :=
  ⟨r.eq_zero ha, fun h => h ▸ r.val_zero⟩

theorem val_inj {a b : Byte} (ha : IsElem f a) (hb : IsElem f b) (h : r.val a = r.val b) : a = b := by
  have hxor := r.eq_zero (isElem_xor ha hb) (by rw [r.val_xor_sub, h, sub_self])
  exact BitVec.xor_eq_zero_iff.1 hxor

theorem val_div {a b : Byte} (ha : IsElem f a) (hb : IsElem f b) (hne : b ≠ 0) :
    r.val (gfDiv f a b) = r.val a / r.val b := by
  rw [eq_div_iff (mt (r.eq_zero hb) hne), ← r.val_mul (isElem_gfDiv f a b) hb, gfMul_gfDiv_cancel ha hb hne]

theorem val_pow {a : Byte} (ha : IsElem f a) (k : Nat) : r.val (gfPow f a k) = r.val a ^ k := by
  induction k with
  | zero => rw [gfPow_zero, r.val_one, pow_zero]
  | succ k ih => rw [gfPow_succ ha, r.val_mul (isElem_gfPow ha k) ha, ih, pow_succ]

theorem val_gfSum (n : Nat) (g : Nat → Byte) : r.val (gfSum n g) = ∑ i ∈ Finset.range n, r.val (g i) := by
  induction n with
  | zero => rw [gfSum_zero, r.val_zero, Finset.sum_range_zero]
  | succ n ih => rw [gfSum_succ, r.val_xor, ih, Finset.sum_range_succ]

/-! ### Powers of x, the locators of positions -/

/-- The locator of position k (R102, R107): x to the k. -/
def pos (k : Nat) : K := r.val (gfExp f k)

theorem pos_ne_zero (k : Nat) : r.pos k ≠ 0 := mt (r.eq_zero (isElem_gfExp f k)) (gfExp_ne_zero f k)

theorem val_gfExp_mul (i k : Nat) : r.val (gfExp f (i * k)) = r.pos k ^ i := by
  rw [pos, ← r.val_pow (isElem_gfExp f k), gfPow_gfExp, Nat.mul_comm]

/-- The positions below p have different locators. -/
theorem pos_injOn : Set.InjOn r.pos (Finset.range (GField.p f)) := by
  intro i hi k hk h
  have hlog := congrArg (gfLog f) (r.val_inj (isElem_gfExp f i) (isElem_gfExp f k) h)
  rw [gfLog_gfExp_of_lt f i (Finset.mem_range.1 hi), gfLog_gfExp_of_lt f k (Finset.mem_range.1 hk)] at hlog
  exact Option.some.inj hlog

/-- The candidate root of position i is the inverse of its locator (R104, R112). -/
theorem val_gfExp_neg {i : Nat} (hi : i ≤ GField.p f) :
    r.val (gfExp f ((GField.p f - i) % GField.p f)) = (r.pos i)⁻¹ := by
  have hone : r.pos (GField.p f - i) * r.pos i = 1 := by
    rw [pos, pos, ← r.val_mul (isElem_gfExp f _) (isElem_gfExp f _), gfMul_gfExp, Nat.sub_add_cancel hi, ← r.val_one,
      ← Nat.one_mul (GField.p f), gfExp_mul_p]
  rw [gfExp_mod]
  exact eq_inv_of_mul_eq_one_left hone

/-! ### Polynomials -/

/-- The polynomial of the first m coefficients of a list. -/
noncomputable def poly (m : Nat) (p : List Byte) : K[X] := ∑ i ∈ Finset.range m, C (r.val (coeff p i)) * X ^ i

theorem coeff_poly (m : Nat) (p : List Byte) (i : Nat) :
    (r.poly m p).coeff i = if i < m then r.val (coeff p i) else 0 := by
  simp only [poly, finsetSum_coeff, coeff_C_mul_X_pow, Finset.sum_ite_eq, Finset.mem_range]

theorem poly_eq {m : Nat} {p : List Byte} {c : K[X]} (hp : ∀ i < m, r.val (coeff p i) = c.coeff i)
    (hc : ∀ i, m ≤ i → c.coeff i = 0) : r.poly m p = c := by
  ext i
  rw [coeff_poly]
  split
  next hi => exact hp i hi
  next hi => exact (hc i (Nat.le_of_not_lt hi)).symm

/-- `peval` away from 0 is evaluation (R92). -/
theorem val_peval (m : Nat) (p : List Byte) {y : Byte} (hy : IsElem f y) (hne : y ≠ 0) :
    r.val (peval f m p y) = (r.poly m p).eval (r.val y) := by
  rw [peval, if_neg hne, r.val_gfSum, poly, eval_finsetSum]
  refine Finset.sum_congr rfl fun i _ => ?_
  rw [r.val_mul (isElem_elem f _) (isElem_gfPow hy i), r.val_elem, r.val_pow hy, eval_mul, eval_C, eval_pow, eval_X]

end Reading

theorem isElem_peval {f : GField} (m : Nat) (p : List Byte) (y : Byte) : IsElem f (peval f m p y) := by
  unfold peval
  split
  · exact isElem_zero f
  · exact isElem_gfSum fun i => isElem_gfMul f _ _

end Sys2Proof.Machine
end

section
/-!
Berlekamp–Massey (41_reed_solomon.md R100, R101, R114): the facts R100 lists of the working values, and that below
`MAX_POLY` the working values read as a `KeyPair` of the syndrome polynomial.
-/

namespace Sys2Proof.Machine

open Polynomial
open Sys2Proof.Stmt Sys2Proof.Codes

variable {f : GField} {m n : Nat} {syn : List Byte} {t : BmScratch}

/-! ### A step -/

theorem bmStep_of_eq_zero (hd : bmDiscrepancy f syn n t = 0) :
    bmStep f m syn t n = { t with shift := t.shift + 1 } := by
  simp only [bmStep, hd, if_true]

theorem bmStep_of_le (hd : bmDiscrepancy f syn n t ≠ 0) (hlen : 2 * t.len ≤ n) :
    bmStep f m syn t n =
      { cur := padd f m t.cur t.prev (gfDiv f (bmDiscrepancy f syn n t) t.mult) t.shift, prev := t.cur,
        len := n + 1 - t.len, shift := 1, mult := bmDiscrepancy f syn n t } := by
  simp only [bmStep, hd, hlen, if_true, if_false]

theorem bmStep_of_lt (hd : bmDiscrepancy f syn n t ≠ 0) (hlen : n < 2 * t.len) :
    bmStep f m syn t n =
      { t with
        cur := padd f m t.cur t.prev (gfDiv f (bmDiscrepancy f syn n t) t.mult) t.shift
        shift := t.shift + 1 } := by
  simp only [bmStep, hd, hlen.not_ge, if_false]

/-! ### The facts of R100 -/

/-- The working values after n steps (R100), all of them elements. -/
structure BmFacts (f : GField) (n : Nat) (t : BmScratch) : Prop where
  mult_ne_zero : t.mult ≠ 0
  len_le : t.len ≤ n
  shift_pos : 1 ≤ t.shift
  constant : coeff t.cur 0 = 1
  isElem_mult : IsElem f t.mult
  isElem_cur (i : Nat) : IsElem f (coeff t.cur i)
  isElem_prev (i : Nat) : IsElem f (coeff t.prev i)

theorem isElem_coeff_polyOne (f : GField) (m i : Nat) : IsElem f (coeff (polyOne m) i) := by
  rw [coeff_polyOne]
  split
  · exact isElem_one f
  · exact isElem_zero f

theorem bmFacts_init (f : GField) (hm : 0 < m) : BmFacts f 0 (bmInit m) where
  mult_ne_zero := by simp [bmInit]
  len_le := le_rfl
  shift_pos := le_rfl
  constant := by simp [bmInit, coeff_polyOne, hm]
  isElem_mult := isElem_one f
  isElem_cur := isElem_coeff_polyOne f m
  isElem_prev := isElem_coeff_polyOne f m

theorem isElem_coeff_padd {dst src : List Byte} {c : Byte} {shift : Nat} (hdst : ∀ i, IsElem f (coeff dst i)) (q : Nat) :
    IsElem f (coeff (padd f m dst src c shift) q) := by
  by_cases hc : c = 0
  · rw [hc, padd_zero_scale]
    exact hdst q
  · rw [coeff_padd f m dst src c shift q hc]
    split_ifs
    · exact hdst q
    · exact isElem_xor (isElem_elem f _) (isElem_gfMul f _ _)
    · exact isElem_zero f

theorem isElem_bmDiscrepancy (f : GField) (syn : List Byte) (n : Nat) (t : BmScratch) :
    IsElem f (bmDiscrepancy f syn n t) :=
  isElem_xor (isElem_elem f _) (isElem_gfSum fun _ => isElem_gfMul f _ _)

/-- The update starts above the constant coefficient (R93). -/
theorem coeff_zero_padd {dst src : List Byte} {c : Byte} {shift : Nat} (hm : 0 < m) (hshift : 1 ≤ shift) :
    coeff (padd f m dst src c shift) 0 = coeff dst 0 := by
  by_cases hc : c = 0
  · rw [hc, padd_zero_scale]
  · rw [coeff_padd f m dst src c shift 0 hc, if_pos hm, if_pos (Nat.pos_of_ne_zero (Nat.one_le_iff_ne_zero.1 hshift))]

theorem BmFacts.step (h : BmFacts f n t) (hm : 0 < m) (syn : List Byte) : BmFacts f (n + 1) (bmStep f m syn t n) := by
  have hlen := h.len_le
  by_cases hd : bmDiscrepancy f syn n t = 0
  · rw [bmStep_of_eq_zero hd]
    exact { h with len_le := hlen.trans n.le_succ, shift_pos := Nat.succ_pos _ }
  · have hconst := (coeff_zero_padd (f := f) (src := t.prev) (c := gfDiv f (bmDiscrepancy f syn n t) t.mult) hm
      h.shift_pos).trans h.constant
    have hcur := isElem_coeff_padd (m := m) (src := t.prev) (c := gfDiv f (bmDiscrepancy f syn n t) t.mult)
      (shift := t.shift) h.isElem_cur
    rcases Nat.lt_or_ge n (2 * t.len) with hlt | hle
    · rw [bmStep_of_lt hd hlt]
      exact { h with len_le := hlen.trans n.le_succ, shift_pos := Nat.succ_pos _, constant := hconst, isElem_cur := hcur }
    · rw [bmStep_of_le hd hle]
      exact {
        mult_ne_zero := hd
        len_le := Nat.sub_le _ _
        shift_pos := le_rfl
        constant := hconst
        isElem_mult := isElem_bmDiscrepancy f syn n t
        isElem_cur := hcur
        isElem_prev := h.isElem_cur }

theorem bmFacts_bmRun (f : GField) (hm : 0 < m) (syn : List Byte) (n : Nat) : BmFacts f n (bmRun f m syn n) := by
  induction n with
  | zero => exact bmFacts_init f hm
  | succ n ih => rw [bmRun_succ]; exact ih.step hm syn

/-- Settles O12. -/
theorem bmScratchFacts : Obligations.BmScratchFacts := by
  intro f m n syn hm
  have h := bmFacts_bmRun f hm syn n
  exact ⟨h.mult_ne_zero, h.len_le, h.shift_pos, h.constant⟩

/-! ### Which syndromes are read -/

theorem bmDiscrepancy_congr {syn syn' : List Byte} (h : ∀ i ≤ n, elem f (coeff syn i) = elem f (coeff syn' i))
    (t : BmScratch) : bmDiscrepancy f syn n t = bmDiscrepancy f syn' n t := by
  have hterm : gfSum t.len (fun i => gfMul f (coeff t.cur (i + 1)) (elem f (coeff syn (n - (i + 1))))) =
      gfSum t.len (fun i => gfMul f (coeff t.cur (i + 1)) (elem f (coeff syn' (n - (i + 1))))) :=
    gfSum_congr fun i _ => by rw [h _ (Nat.sub_le n (i + 1))]
  rw [bmDiscrepancy, bmDiscrepancy, h n le_rfl, hterm]

theorem bmRun_congr {syn syn' : List Byte} (h : ∀ i < n, elem f (coeff syn i) = elem f (coeff syn' i)) :
    bmRun f m syn n = bmRun f m syn' n := by
  induction n with
  | zero => rfl
  | succ n ih =>
    rw [bmRun_succ, bmRun_succ, ih fun i hi => h i (by omega)]
    simp only [bmStep, bmDiscrepancy_congr fun i hi => h i (Nat.lt_succ_of_le hi)]

theorem bmDiscrepancy_eq_zero (h : ∀ i ≤ n, elem f (coeff syn i) = 0) (t : BmScratch) : bmDiscrepancy f syn n t = 0 := by
  rw [bmDiscrepancy, h n le_rfl, gfSum_eq_zero fun i _ => by rw [h _ (Nat.sub_le n (i + 1)), gfMul_zero_right]]
  rfl

theorem bmRun_cur_of_zero (h : ∀ i < n, elem f (coeff syn i) = 0) : (bmRun f m syn n).cur = polyOne m := by
  induction n with
  | zero => rfl
  | succ n ih =>
    rw [bmRun_succ, bmStep_of_eq_zero (bmDiscrepancy_eq_zero (fun i hi => h i (Nat.lt_succ_of_le hi)) _)]
    exact ih fun i hi => h i (by omega)

theorem coeff_bm_of_zero (h : ∀ i < n, elem f (coeff syn i) = 0) {i : Nat} (hi : i < m) :
    coeff (bm f m syn n) i = if i = 0 then 1 else 0 := by
  have hm : 0 < m := by omega
  simp only [bm, bmRun_cur_of_zero h, coeff_polyOne, hm, and_true]

/-! ### BM.f N -/

theorem exec_bm_of_legal {n : Byte} {s : State} (h : n.toNat ≤ s.cfg.maxPoly) :
    exec (.bm f n) s = .next (s.setPoly regSIGMA (bm f s.cfg.maxPoly (s.getPoly regS) n.toNat)).succeed :=
  if_pos (decide_eq_true h)

/-- Settles O11. -/
theorem bmIsTotalAndTrivialOnZeroSyndromes : Obligations.BmIsTotalAndTrivialOnZeroSyndromes := by
  intro f m n syn
  refine ⟨fun syn' h => congrArg BmScratch.cur (bmRun_congr h), fun a s ha => ⟨_, exec_bm_of_legal ha, rfl⟩,
    fun h i hi => coeff_bm_of_zero h hi, fun i hi => coeff_bm_of_zero (by simp) hi⟩

/-- A command whose operands are illegal only sets the two flags (R158). -/
theorem exec_of_illegalOperands {i : Instr} (hi : isCommand i = true) {s : State} (hill : illegalOperands s i) :
    exec i s = .next { s with statusIll := true, statusErrs := true } := by
  have hend := exec_end hi s
  generalize exec i s = o at hend ⊢
  cases hend with
  | illegal => rfl
  | succeeded hl => exact absurd hill hl
  | raised hl => exact absurd hill hl

/-- Settles O10: one write of the whole of SIGMA. -/
theorem bmWritesLocator : Obligations.BmWritesLocator := by
  intro f n
  refine ⟨decodes_word (o := .bm) (pd := 0) (ps := 0) (b := 0) rfl rfl, fun s =>
    ⟨fun hn => exec_of_illegalOperands rfl hn, fun hn => ?_⟩⟩
  exact ⟨_, exec_bm_of_legal hn, setPoly_polyFrame s 1 _, fun i hi => coefAt_setPoly s 1 _ hi⟩

/-! ### What the working values read as -/

section Reads

variable {K : Type} [Field K] (r : Reading f K)

/-- The recurrence of a locator as a coefficient of its product with the syndrome polynomial. -/
theorem val_recurrence {p : List Byte} {c : K[X]} {len k : Nat} (hp : ∀ i, IsElem f (coeff p i))
    (hc : ∀ i < m, r.val (coeff p i) = c.coeff i) (hlen : c.natDegree ≤ len) (hle : len ≤ k) (hk : k < m) :
    r.val (gfSum (len + 1) (fun i => gfMul f (coeff p i) (elem f (coeff syn (k - i))))) = (c * r.poly m syn).coeff k := by
  rw [r.val_gfSum, coeff_mul_eq_sum hlen hle]
  refine Finset.sum_congr rfl fun i hi => ?_
  have hi := Finset.mem_range.1 hi
  rw [r.val_mul (hp i) (isElem_elem f _), r.val_elem, hc i (by omega), r.coeff_poly, if_pos (by omega)]

/-- The discrepancy is the recurrence with C[0] = 1. -/
theorem bmDiscrepancy_eq_gfSum (h : BmFacts f n t) : bmDiscrepancy f syn n t =
    gfSum (t.len + 1) (fun i => gfMul f (coeff t.cur i) (elem f (coeff syn (n - i)))) := by
  rw [gfSum_succ_left, h.constant, gfMul_comm, gfMul_one_right (isElem_elem f _)]
  rfl

theorem val_coeff_padd {dst src : List Byte} {c : Byte} (hc : IsElem f c) (shift : Nat) {q : Nat} (hq : q < m) :
    r.val (coeff (padd f m dst src c shift) q) =
      r.val (coeff dst q) + if shift ≤ q then r.val c * r.val (coeff src (q - shift)) else 0 := by
  by_cases h0 : c = 0
  · rw [h0, padd_zero_scale, r.val_zero, zero_mul, ite_self, add_zero]
  · rw [coeff_padd f m dst src c shift q h0, if_pos hq]
    rcases Nat.lt_or_ge q shift with hlt | hge
    · rw [if_pos hlt, if_neg hlt.not_ge, add_zero]
    · rw [if_neg hge.not_gt, if_pos hge, r.val_xor, r.val_mul (isElem_elem f _) hc, r.val_elem, r.val_elem, mul_comm]

/-- The working values after n steps as polynomials: c and b are C and B, scaled as the next update takes B. -/
structure BmReads (m n : Nat) (s : K[X]) (t : BmScratch) (c p b q : K[X]) : Prop where
  key : KeyPair s n t.len c p (X ^ t.shift * b) q (r.val t.mult)
  cur (i : Nat) (hi : i < m) : r.val (coeff t.cur i) = c.coeff i
  prev (i : Nat) (hi : i < m) : r.val (coeff t.prev i) = b.coeff i

theorem val_coeff_polyOne {i : Nat} (hi : i < m) : r.val (coeff (polyOne m) i) = (1 : K[X]).coeff i := by
  have hm : 0 < m := by omega
  simp only [coeff_polyOne, coeff_one, hm, and_true]
  split
  · exact r.val_one
  · exact r.val_zero

theorem bmReads_init (m : Nat) (s : K[X]) : BmReads r m 0 s (bmInit m) 1 0 1 (-1) where
  key := by simpa only [bmInit, r.val_one, pow_one, mul_one] using keyPair_init s
  cur _ hi := val_coeff_polyOne r hi
  prev _ hi := val_coeff_polyOne r hi

variable {r} {c p b q : K[X]}

theorem BmReads.discrepancy (h : BmReads r m n (r.poly m syn) t c p b q) (hf : BmFacts f n t) (hn : n < m) :
    r.val (bmDiscrepancy f syn n t) = (c * r.poly m syn).coeff n := by
  rw [bmDiscrepancy_eq_gfSum hf, val_recurrence r hf.isElem_cur h.cur h.key.locator_le hf.len_le hn]

theorem BmReads.updated (h : BmReads r m n (r.poly m syn) t c p b q) (hf : BmFacts f n t) {i : Nat} (hi : i < m) :
    r.val (coeff (padd f m t.cur t.prev (gfDiv f (bmDiscrepancy f syn n t) t.mult) t.shift) i) =
      (c - C (r.val (bmDiscrepancy f syn n t) / r.val t.mult) * (X ^ t.shift * b)).coeff i := by
  rw [val_coeff_padd r (isElem_gfDiv f _ _) _ hi,
    r.val_div (isElem_bmDiscrepancy f syn n t) hf.isElem_mult hf.mult_ne_zero, coeff_sub, coeff_C_mul, coeff_X_pow_mul', sub_eq_add_neg, r.neg_eq, h.cur i hi]
  split
  · rw [h.prev _ (by omega)]
  · rw [mul_zero]

theorem BmReads.step (h : BmReads r m n (r.poly m syn) t c p b q) (hf : BmFacts f n t) (hn : n < m) :
    ∃ c p b q, BmReads r m (n + 1) (r.poly m syn) (bmStep f m syn t n) c p b q := by
  have hshift : X * (X ^ t.shift * b) = X ^ (t.shift + 1) * b := by rw [← mul_assoc, ← pow_succ']
  have hdisc := h.discrepancy hf hn
  by_cases hd : bmDiscrepancy f syn n t = 0
  · rw [bmStep_of_eq_zero hd]
    rw [hd, r.val_zero] at hdisc
    exact ⟨c, p, b, X * q, hshift ▸ h.key.step_same hdisc.symm, h.cur, h.prev⟩
  · rcases Nat.lt_or_ge n (2 * t.len) with hlt | hle
    · have hkeep := h.key.step_keep hlt
      rw [← hdisc, hshift] at hkeep
      rw [bmStep_of_lt hd hlt]
      exact ⟨_, _, b, X * q, hkeep, fun i hi => h.updated hf hi, h.prev⟩
    · have hne : (c * r.poly m syn).coeff n ≠ 0 := hdisc ▸ mt (r.eq_zero (isElem_bmDiscrepancy f syn n t)) hd
      have hgrow := h.key.step_grow hle hne
      rw [← hdisc] at hgrow
      rw [bmStep_of_le hd hle]
      exact ⟨_, _, c, X * p, by simpa only [pow_one] using hgrow, fun i hi => h.updated hf hi, h.cur⟩

/-- Up to `MAX_POLY` steps nothing that a later step reads is dropped by the update's truncation (R93, R100). -/
theorem bmRun_reads (r : Reading f K) (syn : List Byte) (hn : n ≤ m) :
    ∃ c p b q, BmReads r m n (r.poly m syn) (bmRun f m syn n) c p b q := by
  induction n with
  | zero => exact ⟨_, _, _, _, bmReads_init r m _⟩
  | succ n ih =>
    obtain ⟨c, p, b, q, h⟩ := ih (by omega)
    rw [bmRun_succ]
    exact h.step (bmFacts_bmRun f (by omega) syn n) hn

/-- The locator that BM finds when the syndromes are the power sums of few errors. -/
theorem poly_bm_eq_locator (r : Reading f K) {I : Finset ℕ} {x e : ℕ → K} (hn : n ≤ m) (hm : 0 < m)
    (hs : ∀ i < n, r.val (coeff syn i) = powerSum I x e i) (hI : 2 * I.card ≤ n) (hinj : Set.InjOn x I)
    (hx : ∀ k ∈ I, x k ≠ 0) (he : ∀ k ∈ I, e k ≠ 0) : r.poly m (bm f m syn n) = locator I x := by
  obtain ⟨c, p, b, q, h⟩ := bmRun_reads r syn hn
  have hc : c = locator I x := by
    refine h.key.eq_locator (fun i hi => ?_) hI hinj hx he
    rw [r.coeff_poly, if_pos (by omega), hs i hi]
  subst hc
  refine r.poly_eq h.cur fun i hi => coeff_eq_zero_of_natDegree_lt ?_
  have hdeg := natDegree_locator_le I x
  omega

/-- The root search (R104, R112) finds the positions of the locator. -/
theorem peval_eq_zero_iff_mem (r : Reading f K) {sigma : List Byte} {I : Finset ℕ}
    (hsigma : r.poly m sigma = locator I r.pos) (hI : I ⊆ Finset.range (GField.p f)) {i : Nat} (hi : i < GField.p f) :
    peval f m sigma (gfExp f ((GField.p f - i) % GField.p f)) = 0 ↔ i ∈ I := by
  rw [← r.val_eq_zero_iff (isElem_peval m sigma _), r.val_peval m sigma (isElem_gfExp f _) (gfExp_ne_zero f _),
    r.val_gfExp_neg hi.le, hsigma, eval_locator_eq_zero_iff (r.pos_ne_zero i)]
  constructor
  · rintro ⟨k, hk, heq⟩
    exact r.pos_injOn (hI hk) (Finset.mem_range.2 hi) heq ▸ hk
  · exact fun hmem => ⟨i, hmem, rfl⟩

end Reads

/-- Settles O13: from the final length on, the product of locator and syndromes has no coefficients. -/
theorem bmLocatorGeneratesSyndromes : Obligations.BmLocatorGeneratesSyndromes := by
  intro f m n syn hn k hlen hk
  obtain ⟨K, _, ⟨r⟩⟩ := exists_reading f
  obtain ⟨c, p, b, q, h⟩ := bmRun_reads r syn hn
  have hf := bmFacts_bmRun f (m := m) (by omega) syn n
  refine r.eq_zero (isElem_gfSum fun i => isElem_gfMul f _ _) ?_
  rw [bm, val_recurrence r hf.isElem_cur h.cur h.key.locator_le hlen (by omega)]
  exact h.key.toKeyEquation.coeff_eq_zero hlen hk

end Sys2Proof.Machine
end

section
/-!
The format word (41_reed_solomon.md R102 to R106): FSYN, the three ways FCORR ends, and that FCORR recovers a word with at
most three flipped bits: the flipped bits are the errors, six power sums of them are what FCORR sees.
-/

namespace Sys2Proof.Machine

open Polynomial
open Sys2Proof.Stmt Sys2Proof.Codes

/-! ### Frames of the polynomial space -/

theorem polyFrame_mono {before after : Memory} {m : Nat} {l l' : List Nat} (h : PolyFrame before after m l)
    (hl : l ⊆ l') : PolyFrame before after m l' :=
  fun a hout => h a fun n hn => hout n (hl hn)

/-- A register written keeps the frame of a list that has it. -/
theorem polyFrame_setPoly {before : Memory} {s : State} {l : List Nat} (h : PolyFrame before s.poly s.cfg.maxPoly l)
    {n : Nat} (hn : n ∈ l) (p : List Byte) : PolyFrame before (s.setPoly n p).poly s.cfg.maxPoly l :=
  fun a hout => (polyFrame_mono (setPoly_polyFrame s n p) (by simpa using hn) a hout).trans (h a hout)

theorem polyFrame_refl (mem : Memory) (m : Nat) (l : List Nat) : PolyFrame mem mem m l := fun _ _ => rfl

theorem coefAt_setPoly_ne (s : State) {n k : Nat} (hne : n ≠ k) (p : List Byte) {i : Nat} (hi : i < s.cfg.maxPoly) :
    coefAt (s.setPoly n p).poly s.cfg.maxPoly k i = coefAt s.poly s.cfg.maxPoly k i :=
  s.setPoly_polyByte_ne hne p hi

/-! ### Syndromes -/

theorem coeff_formatSyndromes (m : Nat) (u : BitVec 15) {i : Nat} (hi : i < m) :
    coeff (formatSyndromes m u) i = if i < 6 then formatSyndrome u i else 0 := by
  rw [formatSyndromes, coeff_map_range, if_pos hi]

theorem formatClean_iff {u : BitVec 15} : formatClean u = true ↔ ∀ i < 6, formatSyndrome u i = 0 := by
  simp only [formatClean, List.all_eq_true, List.mem_range, beq_iff_eq]

theorem coeff_formatSyndromes_of_clean {m : Nat} {u : BitVec 15} (h : formatClean u = true) {i : Nat} (hi : i < m) :
    coeff (formatSyndromes m u) i = 0 := by
  rw [coeff_formatSyndromes m u hi]
  split
  next h6 => exact formatClean_iff.1 h i h6
  next => rfl

theorem formatSyndrome_xor (u v : BitVec 15) (i : Nat) :
    formatSyndrome (u ^^^ v) i = formatSyndrome u i ^^^ formatSyndrome v i := by
  simp only [formatSyndrome, BitVec.getLsbD_xor, ite_bne_eq_xor, gfSum_xor]

/-- The syndromes of a clean word with errors are those of the errors. -/
theorem formatSyndrome_xor_of_clean {w : BitVec 15} (hw : formatClean w = true) (e : BitVec 15) {i : Nat} (hi : i < 6) :
    formatSyndrome (w ^^^ e) i = formatSyndrome e i := by
  rw [formatSyndrome_xor, formatClean_iff.1 hw i hi]
  exact BitVec.zero_xor

/-- Settles O14. -/
theorem fsynWritesFormatSyndromes : Obligations.FsynWritesFormatSyndromes := by
  refine ⟨decodes_of_encode_eq rfl rfl, fun s hm => ?_⟩
  have hcoef (i : Nat) (hi : i < s.cfg.maxPoly) :
      coefAt (s.setPoly 0 (formatSyndromes s.cfg.maxPoly s.fmt)).poly s.cfg.maxPoly 0 i =
        if i < 6 then formatSyndrome s.fmt i else 0 :=
    (coefAt_setPoly s 0 _ hi).trans (coeff_formatSyndromes _ _ hi)
  have hlow (i : Nat) (hi : i < 6) := (hcoef i (by omega)).trans (if_pos hi)
  refine ⟨(s.setPoly 0 _).poly, formatClean s.fmt, rfl, ?_, setPoly_polyFrame s 0 _, fun i hi => ?_, fun i hi h6 => ?_⟩
  · rw [formatClean_iff]
    exact forall₂_congr fun i hi => by rw [hlow i hi]
  · rw [hlow i hi]
    exact gfSum_congr fun j _ => by rw [← gfExp_mod]; rfl
  · rw [hcoef i hi, if_neg (by omega)]

/-! ### The flips -/

theorem getLsbD_flip (p : Bool) (v : BitVec 15) {n k : Nat} (hn : n < 15) :
    (if p then v ^^^ (1#15 <<< n) else v).getLsbD k = (v.getLsbD k ^^ (decide (k = n) && p)) := by
  have hbit : (1#15 <<< n).getLsbD k = decide (k = n) := by
    simp only [BitVec.getLsbD_shiftLeft, BitVec.getLsbD_one]
    grind
  cases p with
  | false => simp
  | true => rw [if_pos rfl, BitVec.getLsbD_xor, hbit, Bool.and_true]

/-- A bit is flipped by its own turn of the loop only. -/
theorem getLsbD_foldl_flip (located : Nat → Bool) (u : BitVec 15) {n : Nat} (hn : n ≤ 15) (k : Nat) :
    ((List.range n).foldl (fun v i => if located i then v ^^^ (1#15 <<< i) else v) u).getLsbD k =
      (u.getLsbD k ^^ (decide (k < n) && located k)) := by
  induction n with
  | zero => simp
  | succ n ih =>
    rw [List.range_succ, List.foldl_append, List.foldl_cons, List.foldl_nil, getLsbD_flip _ _ hn, ih (by omega)]
    rcases Nat.lt_trichotomy k n with hlt | rfl | hgt
    · simp [hlt, hlt.ne, hlt.le]
    · simp
    · simp [hgt.ne', hgt.not_gt, hgt.not_ge]

theorem getLsbD_flipLocated (m : Nat) (sigma : List Byte) (u : BitVec 15) {k : Nat} (hk : k < 15) :
    (flipLocated m sigma u).getLsbD k = (u.getLsbD k ^^ formatRoot m sigma k) := by
  rw [flipLocated, getLsbD_foldl_flip _ u le_rfl k, decide_eq_true hk, Bool.true_and]

/-! ### The three ends of FCORR -/

/-- The unmasked word. -/
def State.unmasked (s : State) : BitVec 15 := s.fmtraw ^^^ formatMask

/-- The locator of a word's syndromes. -/
def wordLocator (m : Nat) (u : BitVec 15) : List Byte := bm .gf16 m (formatSyndromes m u) 6

/-- The word with the located bits flipped. -/
def correctedWord (m : Nat) (u : BitVec 15) : BitVec 15 := flipLocated m (wordLocator m u) u

/-- The state in which FCORR has searched and re-verified (R104). -/
def State.searched (s : State) : State :=
  ((((({ s with fmt := s.unmasked } : State).putFormatSyndromes s.unmasked).setZ false).setPoly regSIGMA
    (wordLocator s.cfg.maxPoly s.unmasked)).putFormatSyndromes (correctedWord s.cfg.maxPoly s.unmasked))

theorem exec_fcorr_of_clean {s : State} (h : formatClean s.unmasked = true) :
    exec .fcorr s = .next (((({ s with fmt := s.unmasked } : State).putFormatSyndromes s.unmasked).setZ true).acceptFormat
      s.unmasked).succeed := by
  rw [State.unmasked] at h
  simp only [exec, execFcorr, h, if_true, State.unmasked]

theorem exec_fcorr_of_corrected {s : State} (h : formatClean s.unmasked = false)
    (hv : formatClean (correctedWord s.cfg.maxPoly s.unmasked) = true) :
    exec .fcorr s = .next (s.searched.acceptFormat (correctedWord s.cfg.maxPoly s.unmasked)).succeed := by
  rw [correctedWord, wordLocator, State.unmasked] at hv
  rw [State.unmasked] at h
  simp only [exec, execFcorr, h, hv, if_true, Bool.false_eq_true, if_false, State.searched, correctedWord, wordLocator,
    State.unmasked]

theorem exec_fcorr_of_failed {s : State} (h : formatClean s.unmasked = false)
    (hv : formatClean (correctedWord s.cfg.maxPoly s.unmasked) = false) :
    exec .fcorr s = .next (s.searched.raise .formatEcc) := by
  rw [correctedWord, wordLocator, State.unmasked] at hv
  rw [State.unmasked] at h
  simp only [exec, execFcorr, h, hv, Bool.false_eq_true, if_false, State.searched, correctedWord, wordLocator,
    State.unmasked]

theorem searched_polyFrame (s : State) : PolyFrame s.poly s.searched.poly s.cfg.maxPoly [0, 1] := by
  have hfirst := polyFrame_setPoly (polyFrame_refl s.poly s.cfg.maxPoly [0, 1]) (n := 0) (by simp)
    (formatSyndromes s.cfg.maxPoly s.unmasked)
  have hsecond := polyFrame_setPoly (s := s.setPoly 0 _) hfirst (n := 1) (by simp) (wordLocator s.cfg.maxPoly s.unmasked)
  exact polyFrame_setPoly (s := (s.setPoly 0 _).setPoly 1 _) hsecond (n := 0) (by simp) _

theorem coefAt_searched_locator (s : State) {i : Nat} (hi : i < s.cfg.maxPoly) :
    coefAt s.searched.poly s.cfg.maxPoly 1 i = coeff (wordLocator s.cfg.maxPoly s.unmasked) i :=
  (coefAt_setPoly_ne ((s.setPoly 0 _).setPoly 1 _) Nat.zero_ne_one _ hi).trans (coefAt_setPoly (s.setPoly 0 _) 1 _ hi)

theorem coefAt_searched_syndromes (s : State) {i : Nat} (hi : i < s.cfg.maxPoly) :
    coefAt s.searched.poly s.cfg.maxPoly 0 i =
      coeff (formatSyndromes s.cfg.maxPoly (correctedWord s.cfg.maxPoly s.unmasked)) i :=
  coefAt_setPoly ((s.setPoly 0 _).setPoly 1 _) 0 _ hi

/-- Settles O15: each of the three ends with the state it leaves. -/
theorem fcorrCorrectsOrRaises : Obligations.FcorrCorrectsOrRaises := by
  refine ⟨decodes_of_encode_eq rfl rfl, fun s _ => ⟨fun h => ?_, fun h => ?_⟩⟩
  · exact ⟨_, exec_fcorr_of_clean h, setPoly_polyFrame s 0 _, fun i hi =>
      (coefAt_setPoly s 0 _ hi).trans (coeff_formatSyndromes_of_clean h hi)⟩
  · exact ⟨s.searched.poly, _, correctedWord s.cfg.maxPoly s.unmasked, rfl,
      fun i hi => (getLsbD_flipLocated _ _ _ hi).trans (by rw [formatRoot, beq_eq_decide]; rfl),
      searched_polyFrame s, fun _ hi => coefAt_searched_locator s hi, fun _ hi => coefAt_searched_syndromes s hi,
      fun hv => exec_fcorr_of_corrected h hv, fun hv => exec_fcorr_of_failed h hv⟩

/-! ### Recovery -/

theorem card_filter_range (n : Nat) (p : Nat → Bool) :
    ((Finset.range n).filter (p ·)).card = (List.range n).countP p := by
  induction n with
  | zero => rfl
  | succ n ih =>
    rw [Finset.range_add_one, Finset.filter_insert, List.range_succ, List.countP_append, ← ih]
    split <;> simp [*]

/-- The positions of the set bits. -/
def bitPositions (e : BitVec 15) : Finset ℕ := (Finset.range 15).filter (e.getLsbD ·)

theorem mem_bitPositions {e : BitVec 15} {i : Nat} (hi : i < 15) : i ∈ bitPositions e ↔ e.getLsbD i = true := by
  simp [bitPositions, hi]

section Recovery

variable {K : Type} [Field K] (r : Reading .gf16 K)

/-- Six syndromes of a word are the first power sums of its set bits, each with its locator as its value (R102). -/
theorem val_formatSyndrome (e : BitVec 15) (i : Nat) :
    r.val (formatSyndrome e i) = powerSum (bitPositions e) r.pos r.pos i := by
  rw [formatSyndrome, r.val_gfSum, powerSum, bitPositions, Finset.sum_filter]
  refine Finset.sum_congr rfl fun j _ => ?_
  split
  · rw [r.val_gfExp_mul, pow_succ']
  · exact r.val_zero

theorem bitPositions_injOn (e : BitVec 15) : Set.InjOn r.pos (bitPositions e) :=
  r.pos_injOn.mono (Finset.coe_subset.2 (Finset.filter_subset _ _))

variable {w e : BitVec 15}

/-- A word with at most three errors that looks clean has none. -/
theorem eq_zero_of_clean (hw : formatClean w = true) (he : (bitPositions e).card ≤ 3)
    (hu : formatClean (w ^^^ e) = true) : e = 0 := by
  obtain ⟨K, _, ⟨r⟩⟩ := exists_reading .gf16
  have hempty : bitPositions e = ∅ := by
    refine eq_empty_of_powerSum_eq_zero (n := 6) (x := r.pos) (e := r.pos) (fun i hi => ?_) (by omega)
      (bitPositions_injOn r e) (fun k _ => r.pos_ne_zero k) (fun k _ => r.pos_ne_zero k)
    rw [← val_formatSyndrome, ← formatSyndrome_xor_of_clean hw e hi, formatClean_iff.1 hu i hi, r.val_zero]
  refine BitVec.eq_of_getLsbD_eq fun i hi => ?_
  have hnot : i ∉ bitPositions e := hempty ▸ Finset.notMem_empty i
  rw [mem_bitPositions hi] at hnot
  simpa using hnot

/-- The bits that FCORR flips are the errors. -/
theorem formatRoot_wordLocator {m : Nat} (hm : 6 ≤ m) (hw : formatClean w = true) (he : (bitPositions e).card ≤ 3)
    {i : Nat} (hi : i < 15) : formatRoot m (wordLocator m (w ^^^ e)) i = e.getLsbD i := by
  obtain ⟨K, _, ⟨r⟩⟩ := exists_reading .gf16
  have hlocator : r.poly m (wordLocator m (w ^^^ e)) = locator (bitPositions e) r.pos := by
    refine poly_bm_eq_locator r (e := r.pos) hm (by omega) (fun k hk => ?_) (by omega) (bitPositions_injOn r e)
      (fun k _ => r.pos_ne_zero k) (fun k _ => r.pos_ne_zero k)
    rw [coeff_formatSyndromes m _ (by omega), if_pos hk, formatSyndrome_xor_of_clean hw e hk, val_formatSyndrome]
  rw [Bool.eq_iff_iff, ← mem_bitPositions hi, formatRoot, beq_iff_eq]
  exact peval_eq_zero_iff_mem r hlocator (Finset.filter_subset _ _) hi

theorem corrected_eq {m : Nat} (hm : 6 ≤ m) (hw : formatClean w = true) (he : (bitPositions e).card ≤ 3) :
    correctedWord m (w ^^^ e) = w := by
  refine BitVec.eq_of_getLsbD_eq fun i hi => ?_
  rw [correctedWord, getLsbD_flipLocated _ _ _ hi, formatRoot_wordLocator hm hw he hi, BitVec.getLsbD_xor, Bool.xor_assoc,
    Bool.xor_self, Bool.xor_false]

end Recovery

/-- Settles O16: at most three errors are located by six syndromes; whatever the word, only a clean one is accepted. -/
theorem fcorrRecoversUpToThreeBitErrors : Obligations.FcorrRecoversUpToThreeBitErrors := by
  refine ⟨fun s w e hwf hw he hraw => ?_, fun s => ?_⟩
  · have hcard : (bitPositions e).card ≤ 3 := (card_filter_range 15 e.getLsbD).trans_le he
    have hm : 6 ≤ s.cfg.maxPoly := by
      obtain ⟨hm, -⟩ := hwf
      omega
    have hu : s.unmasked = w ^^^ e := by
      have hmask : 0x5412#15 = formatMask := rfl
      rw [State.unmasked, hraw, hmask, BitVec.xor_assoc, BitVec.xor_self, BitVec.xor_zero]
    cases hc : formatClean s.unmasked with
    | true =>
      have hzero := eq_zero_of_clean hw hcard (hu ▸ hc)
      have hword : s.unmasked = w := by rw [hu, hzero]; exact BitVec.xor_zero
      exact ⟨_, exec_fcorr_of_clean hc, rfl, hword⟩
    | false =>
      have hword : correctedWord s.cfg.maxPoly s.unmasked = w := by rw [hu, corrected_eq hm hw hcard]
      exact ⟨_, exec_fcorr_of_corrected hc (hword ▸ hw), rfl, hword⟩
  · cases hc : formatClean s.unmasked with
    | true => exact ⟨_, exec_fcorr_of_clean hc, .inr ⟨rfl, hc⟩⟩
    | false =>
      cases hv : formatClean (correctedWord s.cfg.maxPoly s.unmasked) with
      | true => exact ⟨_, exec_fcorr_of_corrected hc hv, .inr ⟨rfl, hv⟩⟩
      | false => exact ⟨_, exec_fcorr_of_failed hc hv, .inl rfl⟩

end Sys2Proof.Machine
end

section
/-!
BSYN, EEVP and BCORR (41_reed_solomon.md R107 to R112): what each writes, the two loops of R110 as one sum a coefficient,
Forney's loop byte by byte, and the three ways BCORR ends.
-/

namespace Sys2Proof.Machine

open Sys2Proof.Stmt

/-! ### Syndromes -/

theorem coeff_blockSyndromes (m : Nat) (cw : Memory) (bs npar : Nat) {i : Nat} (hi : i < m) :
    coeff (blockSyndromes m cw bs npar) i = if i < npar then blockSyndrome cw bs i else 0 := by
  rw [blockSyndromes, coeff_map_range, if_pos hi]

theorem blockClean_iff {cw : Memory} {bs npar : Nat} :
    blockClean cw bs npar = true ↔ ∀ i < npar, blockSyndrome cw bs i = 0 := by
  simp only [blockClean, List.all_eq_true, List.mem_range, beq_iff_eq]

theorem coeff_blockSyndromes_of_clean {m bs npar : Nat} {cw : Memory} (h : blockClean cw bs npar = true) {i : Nat}
    (hi : i < m) : coeff (blockSyndromes m cw bs npar) i = 0 := by
  rw [coeff_blockSyndromes m cw bs npar hi]
  split
  next hlt => exact blockClean_iff.1 h i hlt
  next => rfl

theorem gfPow_two (k : Nat) : gfPow .gf256 2 k = gfExp .gf256 k := by
  have htwo : gfExp .gf256 1 = 2 := rfl
  rw [← htwo, gfPow_gfExp, Nat.one_mul]

theorem blockSyndrome_eq_gfSum (cw : Memory) (bs i : Nat) :
    blockSyndrome cw bs i = gfSum bs (fun j => gfMul .gf256 (cw.read (bs - 1 - j)) (gfExp .gf256 (i * j))) := by
  simp only [blockSyndrome, gfPow_two]

theorem blockSyndrome_congr {cw cw' : Memory} {bs : Nat} (h : ∀ a < bs, cw.read a = cw'.read a) (i : Nat) :
    blockSyndrome cw bs i = blockSyndrome cw' bs i :=
  gfSum_congr fun j hj => by rw [h (bs - 1 - j) (by omega)]

theorem blockClean_congr {cw cw' : Memory} {bs : Nat} (h : ∀ a < bs, cw.read a = cw'.read a) (npar : Nat) :
    blockClean cw bs npar = blockClean cw' bs npar := by
  simp only [blockClean, blockSyndrome_congr h]

theorem exec_bsyn_of_legal {bs npar : Byte} {s : State} (h : ¬ illegalOperands s (.bsyn bs npar)) :
    exec (.bsyn bs npar) s =
      .next ((s.putBlockSyndromes bs.toNat npar.toNat).setZ (blockClean s.cw bs.toNat npar.toNat)).succeed :=
  if_pos ((legalOperands_iff s (.bsyn bs npar)).2 h)

/-- Settles O17. -/
theorem bsynWritesBlockSyndromes : Obligations.BsynWritesBlockSyndromes := by
  intro bs npar
  refine ⟨decodes_word (o := .bsyn) (f := .gf256) (pd := 0) (ps := 0) rfl rfl, fun s =>
    ⟨fun hill => exec_of_illegalOperands rfl hill, fun hbs hnpar => ?_⟩⟩
  have hlegal : ¬ illegalOperands s (.bsyn bs npar) := by
    simp only [illegalOperands]
    omega
  have hcoef (i : Nat) (hi : i < s.cfg.maxPoly) :
      coefAt (s.putBlockSyndromes bs.toNat npar.toNat).poly s.cfg.maxPoly 0 i =
        if i < npar.toNat then blockSyndrome s.cw bs.toNat i else 0 :=
    (coefAt_setPoly s 0 _ hi).trans (coeff_blockSyndromes _ _ _ _ hi)
  have hlow (i : Nat) (hi : i < npar.toNat) := (hcoef i (by omega)).trans (if_pos hi)
  refine ⟨_, _, exec_bsyn_of_legal hlegal, ?_, setPoly_polyFrame s 0 _, fun i hi => ?_, fun i hi hge => ?_⟩
  · exact blockClean_iff.trans (forall₂_congr fun i hi => by rw [← hlow i hi]; rfl)
  · refine (hlow i hi).trans ((blockSyndrome_eq_gfSum _ _ _).trans (gfSum_congr fun j _ => ?_))
    rw [← gfExp_mod]
    rfl
  · exact (hcoef i hi).trans (if_neg (by omega))

/-! ### EEVP -/

/-- The inner loop of R110 adds one term to each of its coefficients. -/
theorem foldl_row (term : Nat → Byte) (i n k : Nat) (w : Nat → Byte) :
    (List.range n).foldl (fun w j k => if k = i + j then w k ^^^ term j else w k) w k =
      w k ^^^ if i ≤ k ∧ k < i + n then term (k - i) else 0 := by
  induction n with
  | zero =>
    rw [if_neg (by omega)]
    exact BitVec.xor_zero.symm
  | succ n ih =>
    rw [List.range_succ, List.foldl_append, List.foldl_cons, List.foldl_nil, ih]
    by_cases hk : k = i + n
    · subst hk
      simp
    · rw [if_neg hk]
      have hiff : (i ≤ k ∧ k < i + n) ↔ (i ≤ k ∧ k < i + (n + 1)) := by omega
      simp only [hiff]

theorem gfSum_of_tail_zero {n n' : Nat} {g : Nat → Byte} (hle : n ≤ n') (h : ∀ i, n ≤ i → g i = 0) :
    gfSum n' g = gfSum n g := by
  induction n', hle using Nat.le_induction with
  | base => rfl
  | succ n' hn ih => rw [gfSum_succ, ih, h n' hn]; exact BitVec.xor_zero

/-- The two loops of R110 give coefficient k its sum over i + j = k. -/
theorem eevpLoops_eq (sigma syn : Nat → Byte) (npar k : Nat) :
    eevpLoops sigma syn npar k =
      if k + 1 < npar then gfSum (k + 1) (fun i => gfMul .gf256 (sigma i) (syn (k - i + 1))) else 0 := by
  have hrows (n : Nat) (hn : n ≤ npar - 1) :
      (List.range n).foldl (fun w i => (List.range (npar - 1 - i)).foldl (fun w j k =>
        if k = i + j then w k ^^^ gfMul .gf256 (sigma i) (syn (j + 1)) else w k) w) (fun _ => 0) k =
        gfSum n (fun i => if i ≤ k ∧ k + 1 < npar then gfMul .gf256 (sigma i) (syn (k - i + 1)) else 0) := by
    induction n with
    | zero => rfl
    | succ n ih =>
      have hiff : (n ≤ k ∧ k < n + (npar - 1 - n)) ↔ (n ≤ k ∧ k + 1 < npar) := by omega
      rw [List.range_succ, List.foldl_append, List.foldl_cons, List.foldl_nil,
        foldl_row (fun j => gfMul .gf256 (sigma n) (syn (j + 1))), ih (by omega), gfSum_succ]
      simp only [hiff]
  rw [eevpLoops, hrows _ le_rfl]
  split
  next hk =>
    rw [gfSum_of_tail_zero (n := k + 1) (by omega) fun i hi => if_neg (by omega)]
    exact gfSum_congr fun i hi => if_pos ⟨by omega, hk⟩
  next hk => exact gfSum_eq_zero fun i _ => if_neg (by omega)

theorem coeff_eevp (m : Nat) (sigma syn : List Byte) (npar : Nat) {k : Nat} (hk : k < m) :
    coeff (eevp m sigma syn npar) k =
      if k + 1 < npar then gfSum (k + 1) (fun i => gfMul .gf256 (coeff sigma i) (coeff syn (k - i + 1))) else 0 := by
  rw [eevp, coeff_map_range, if_pos hk]

theorem coeff_deriv (m : Nat) (p : List Byte) {k : Nat} (hk : k < m) :
    coeff (deriv m p) k = if k % 2 = 0 ∧ k + 1 < m then coeff p (k + 1) else 0 := by
  rw [deriv, coeff_map_range, if_pos hk]

theorem coeff_getPoly_eq_coefAt (s : State) (n : Nat) {i : Nat} (hi : i < s.cfg.maxPoly) :
    coeff (s.getPoly n) i = coefAt s.poly s.cfg.maxPoly n i := by
  rw [State.coeff_getPoly, if_pos hi]
  rfl

theorem exec_eevp_of_legal {npar : Byte} {s : State} (h : ¬ illegalOperands s (.eevp npar)) :
    exec (.eevp npar) s = .next ((s.setPoly 2 (eevp s.cfg.maxPoly (s.getPoly 1) (s.getPoly 0) npar.toNat)).setPoly 3
      (deriv s.cfg.maxPoly (s.getPoly 1))).succeed :=
  if_pos ((legalOperands_iff s (.eevp npar)).2 h)

/-- Settles O18. -/
theorem eevpWritesEvaluatorAndDerivative : Obligations.EevpWritesEvaluatorAndDerivative := by
  intro npar
  refine ⟨decodes_word (o := .eevp) (f := .gf256) (pd := 0) (ps := 0) (b := 0) rfl rfl, fun s =>
    ⟨fun hill => exec_of_illegalOperands rfl hill, fun hpos hle => ?_⟩⟩
  have hlegal : ¬ illegalOperands s (.eevp npar) := by
    simp only [illegalOperands]
    omega
  have hframe := polyFrame_setPoly (polyFrame_refl s.poly s.cfg.maxPoly [2, 3]) (n := 2) (by simp)
    (eevp s.cfg.maxPoly (s.getPoly 1) (s.getPoly 0) npar.toNat)
  refine ⟨_, exec_eevp_of_legal hlegal, polyFrame_setPoly (s := s.setPoly 2 _) hframe (n := 3) (by simp) _,
    fun k hk => ?_, fun k hk => ?_⟩
  · refine (coefAt_setPoly_ne (s.setPoly 2 _) (by decide) _ hk).trans ((coefAt_setPoly s 2 _ hk).trans ?_)
    rw [coeff_eevp _ _ _ _ hk, eevpLoops_eq]
    split
    next hlt =>
      refine gfSum_congr fun i hi => ?_
      rw [coeff_getPoly_eq_coefAt s 1 (by omega), coeff_getPoly_eq_coefAt s 0 (by omega)]
    next => rfl
  · refine (coefAt_setPoly (s.setPoly 2 _) 3 _ hk).trans ((coeff_deriv _ _ hk).trans ?_)
    have hiff : k + 1 < s.cfg.maxPoly ↔ k + 1 ≤ s.cfg.maxPoly - 1 := by omega
    simp only [← hiff]
    split
    next h => exact coeff_getPoly_eq_coefAt s 1 h.2
    next => rfl

/-! ### Forney's loop -/

section Forney

variable (m : Nat) (sigma omega dsigma : List Byte)

/-- What candidate position i is corrected by (R112). -/
def forneyValue (i : Nat) : Byte :=
  if peval .gf256 m sigma (gfExp .gf256 ((255 - i) % 255)) = 0 ∧
      peval .gf256 m dsigma (gfExp .gf256 ((255 - i) % 255)) ≠ 0 then
    gfDiv .gf256 (peval .gf256 m omega (gfExp .gf256 ((255 - i) % 255)))
      (peval .gf256 m dsigma (gfExp .gf256 ((255 - i) % 255)))
  else 0

theorem forneyAt_eq (bs : Nat) (cw : Memory) (i : Nat) :
    forneyAt m sigma omega dsigma bs cw i =
      if peval .gf256 m sigma (gfExp .gf256 ((255 - i) % 255)) = 0 ∧
          peval .gf256 m dsigma (gfExp .gf256 ((255 - i) % 255)) ≠ 0 then
        cw.write (bs - 1 - i) (cw.read (bs - 1 - i) ^^^ forneyValue m sigma omega dsigma i)
      else cw := by
  unfold forneyAt
  dsimp only
  split_ifs with hroot hsd h h h
  · exact absurd hsd h.2
  · rfl
  · rw [forneyValue, if_pos h]
  · exact absurd ⟨hroot, hsd⟩ h
  · exact absurd h.1 hroot
  · rfl

theorem read_forneyAt (bs : Nat) (cw : Memory) (i a : Nat) :
    (forneyAt m sigma omega dsigma bs cw i).read a =
      cw.read a ^^^ if bs - 1 - i = a then forneyValue m sigma omega dsigma i else 0 := by
  have hzero : cw.read a ^^^ 0 = cw.read a := BitVec.xor_zero
  rw [forneyAt_eq]
  split
  next =>
    rw [Memory.read_write]
    split
    next ha => rw [ha]
    next => rw [hzero]
  next h => rw [forneyValue, if_neg h, ite_self, hzero]

/-- A byte of the block is corrected by its own turn of the loop only. -/
theorem read_foldl_forneyAt {bs n : Nat} (hn : n ≤ bs) (cw : Memory) (a : Nat) :
    ((List.range n).foldl (forneyAt m sigma omega dsigma bs) cw).read a =
      cw.read a ^^^ if a < bs ∧ bs - 1 - a < n then forneyValue m sigma omega dsigma (bs - 1 - a) else 0 := by
  induction n with
  | zero =>
    rw [if_neg (by omega)]
    exact BitVec.xor_zero.symm
  | succ n ih =>
    rw [List.range_succ, List.foldl_append, List.foldl_cons, List.foldl_nil, read_forneyAt, ih (by omega)]
    by_cases ha : bs - 1 - n = a
    · obtain rfl : n = bs - 1 - a := by omega
      rw [if_pos ha, if_neg (by omega), if_pos (by omega), BitVec.xor_assoc]
      exact congrArg _ BitVec.zero_xor
    · have hiff : (a < bs ∧ bs - 1 - a < n) ↔ (a < bs ∧ bs - 1 - a < n + 1) := by omega
      rw [if_neg ha]
      simp only [hiff]
      exact BitVec.xor_zero

theorem read_forney_of_lt {bs i : Nat} (hi : i < bs) (cw : Memory) :
    (forney m sigma omega dsigma bs cw).read (bs - 1 - i) =
      cw.read (bs - 1 - i) ^^^ forneyValue m sigma omega dsigma i := by
  have hback : bs - 1 - (bs - 1 - i) = i := by omega
  rw [forney, read_foldl_forneyAt m sigma omega dsigma le_rfl, if_pos (by omega), hback]

theorem read_forney_of_ge {bs a : Nat} (ha : bs ≤ a) (cw : Memory) :
    (forney m sigma omega dsigma bs cw).read a = cw.read a := by
  rw [forney, read_foldl_forneyAt m sigma omega dsigma le_rfl, if_neg (by omega)]
  exact BitVec.xor_zero

end Forney

/-! ### The three ends of BCORR -/

/-- The locator of a block's syndromes. -/
def blockLocator (m : Nat) (cw : Memory) (bs npar : Nat) : List Byte := bm .gf256 m (blockSyndromes m cw bs npar) npar

/-- The evaluator of a block's syndromes. -/
def blockEvaluator (m : Nat) (cw : Memory) (bs npar : Nat) : List Byte :=
  eevp m (blockLocator m cw bs npar) (blockSyndromes m cw bs npar) npar

/-- The block with Forney's corrections. -/
def correctedBlock (m : Nat) (cw : Memory) (bs npar : Nat) : Memory :=
  forney m (blockLocator m cw bs npar) (blockEvaluator m cw bs npar) (deriv m (blockLocator m cw bs npar)) bs cw

/-- The state in which BCORR has its three polynomials. -/
def State.located (s : State) (bs npar : Nat) : State :=
  ((((s.putBlockSyndromes bs npar).setZ false).setPoly regSIGMA (blockLocator s.cfg.maxPoly s.cw bs npar)).setPoly
    regOMEGA (blockEvaluator s.cfg.maxPoly s.cw bs npar)).setPoly
    regDSIGMA (deriv s.cfg.maxPoly (blockLocator s.cfg.maxPoly s.cw bs npar))

/-- The state in which BCORR has corrected the block and computed its syndromes again. -/
def State.blockCorrected (s : State) (bs npar : Nat) : State :=
  ({ s.located bs npar with cw := correctedBlock s.cfg.maxPoly s.cw bs npar } : State).putBlockSyndromes bs npar

section Bcorr

variable {bs dw : Byte} {s : State}

theorem exec_bcorr_of_clean (hl : ¬ illegalOperands s (.bcorr bs dw))
    (h : blockClean s.cw bs.toNat (bs.toNat - dw.toNat) = true) :
    exec (.bcorr bs dw) s = .next ((s.putBlockSyndromes bs.toNat (bs.toNat - dw.toNat)).setZ true).succeed := by
  have hl : bcorrLegal s.cfg bs dw = true := (legalOperands_iff s (.bcorr bs dw)).2 hl
  simp only [exec, execBcorr, hl, h, if_true]

theorem exec_bcorr_of_corrected (hl : ¬ illegalOperands s (.bcorr bs dw))
    (h : blockClean s.cw bs.toNat (bs.toNat - dw.toNat) = false)
    (hv : blockClean (correctedBlock s.cfg.maxPoly s.cw bs.toNat (bs.toNat - dw.toNat)) bs.toNat (bs.toNat - dw.toNat) =
      true) :
    exec (.bcorr bs dw) s = .next (s.blockCorrected bs.toNat (bs.toNat - dw.toNat)).succeed := by
  have hl : bcorrLegal s.cfg bs dw = true := (legalOperands_iff s (.bcorr bs dw)).2 hl
  rw [correctedBlock, blockEvaluator, blockLocator] at hv
  simp only [exec, execBcorr, hl, h, hv, if_true, Bool.false_eq_true, if_false, State.blockCorrected, State.located,
    correctedBlock, blockEvaluator, blockLocator]

theorem exec_bcorr_of_failed (hl : ¬ illegalOperands s (.bcorr bs dw))
    (h : blockClean s.cw bs.toNat (bs.toNat - dw.toNat) = false)
    (hv : blockClean (correctedBlock s.cfg.maxPoly s.cw bs.toNat (bs.toNat - dw.toNat)) bs.toNat (bs.toNat - dw.toNat) =
      false) :
    exec (.bcorr bs dw) s = .next ((s.blockCorrected bs.toNat (bs.toNat - dw.toNat)).raise .blockEcc) := by
  have hl : bcorrLegal s.cfg bs dw = true := (legalOperands_iff s (.bcorr bs dw)).2 hl
  rw [correctedBlock, blockEvaluator, blockLocator] at hv
  simp only [exec, execBcorr, hl, h, hv, if_true, Bool.false_eq_true, if_false, State.blockCorrected, State.located,
    correctedBlock, blockEvaluator, blockLocator]

theorem not_illegalOperands_bcorr (hdw : dw.toNat < bs.toNat) (hm : bs.toNat - dw.toNat ≤ s.cfg.maxPoly) :
    ¬ illegalOperands s (.bcorr bs dw) := by
  simp only [illegalOperands]
  omega

end Bcorr

/-! ### What BCORR writes -/

section Written

variable (s : State) (bs npar : Nat)

theorem located_polyFrame : PolyFrame s.poly (s.located bs npar).poly s.cfg.maxPoly [0, 1, 2, 3] := by
  have h0 := polyFrame_setPoly (polyFrame_refl s.poly s.cfg.maxPoly [0, 1, 2, 3]) (n := 0) (by simp)
    (blockSyndromes s.cfg.maxPoly s.cw bs npar)
  have h1 := polyFrame_setPoly (s := s.setPoly 0 _) h0 (n := 1) (by simp) (blockLocator s.cfg.maxPoly s.cw bs npar)
  have h2 := polyFrame_setPoly (s := (s.setPoly 0 _).setPoly 1 _) h1 (n := 2) (by simp)
    (blockEvaluator s.cfg.maxPoly s.cw bs npar)
  exact polyFrame_setPoly (s := ((s.setPoly 0 _).setPoly 1 _).setPoly 2 _) h2 (n := 3) (by simp) _

theorem blockCorrected_polyFrame : PolyFrame s.poly (s.blockCorrected bs npar).poly s.cfg.maxPoly [0, 1, 2, 3] :=
  polyFrame_setPoly (s := { s.located bs npar with cw := correctedBlock s.cfg.maxPoly s.cw bs npar })
    (located_polyFrame s bs npar) (n := 0) (by simp) _

variable {i : Nat} (hi : i < s.cfg.maxPoly)

include hi

theorem coefAt_blockCorrected_syndromes :
    coefAt (s.blockCorrected bs npar).poly s.cfg.maxPoly 0 i =
      coeff (blockSyndromes s.cfg.maxPoly (correctedBlock s.cfg.maxPoly s.cw bs npar) bs npar) i :=
  coefAt_setPoly { s.located bs npar with cw := correctedBlock s.cfg.maxPoly s.cw bs npar } 0 _ hi

/-- The last syndromes leave the three polynomials. -/
theorem coefAt_blockCorrected_ne {k : Nat} (hk : 0 ≠ k) :
    coefAt (s.blockCorrected bs npar).poly s.cfg.maxPoly k i = coefAt (s.located bs npar).poly s.cfg.maxPoly k i :=
  coefAt_setPoly_ne { s.located bs npar with cw := correctedBlock s.cfg.maxPoly s.cw bs npar } hk _ hi

theorem coefAt_located_locator :
    coefAt (s.located bs npar).poly s.cfg.maxPoly 1 i = coeff (blockLocator s.cfg.maxPoly s.cw bs npar) i :=
  (coefAt_setPoly_ne (((s.setPoly 0 _).setPoly 1 _).setPoly 2 _) (by decide) _ hi).trans
    ((coefAt_setPoly_ne ((s.setPoly 0 _).setPoly 1 _) (by decide) _ hi).trans (coefAt_setPoly (s.setPoly 0 _) 1 _ hi))

theorem coefAt_located_evaluator :
    coefAt (s.located bs npar).poly s.cfg.maxPoly 2 i = coeff (blockEvaluator s.cfg.maxPoly s.cw bs npar) i :=
  (coefAt_setPoly_ne (((s.setPoly 0 _).setPoly 1 _).setPoly 2 _) (by decide) _ hi).trans
    (coefAt_setPoly ((s.setPoly 0 _).setPoly 1 _) 2 _ hi)

theorem coefAt_located_derivative :
    coefAt (s.located bs npar).poly s.cfg.maxPoly 3 i =
      coeff (deriv s.cfg.maxPoly (blockLocator s.cfg.maxPoly s.cw bs npar)) i :=
  coefAt_setPoly (((s.setPoly 0 _).setPoly 1 _).setPoly 2 _) 3 _ hi

end Written

/-- Settles O19: each of the ends with the state it leaves. -/
theorem bcorrCorrectsOrRaises : Obligations.BcorrCorrectsOrRaises := by
  intro bs dw
  refine ⟨decodes_word (o := .bcorr) (f := .gf256) (pd := 0) (ps := 0) rfl rfl, fun s =>
    ⟨fun hill => exec_of_illegalOperands rfl hill, fun hdw hm => ?_⟩⟩
  have hl := not_illegalOperands_bcorr hdw hm
  refine ⟨fun h => ⟨_, exec_bcorr_of_clean hl h, setPoly_polyFrame s 0 _, fun i hi =>
    (coefAt_setPoly s 0 _ hi).trans (coeff_blockSyndromes_of_clean h hi)⟩, fun h => ?_⟩
  refine ⟨(s.blockCorrected bs.toNat (bs.toNat - dw.toNat)).poly,
    correctedBlock s.cfg.maxPoly s.cw bs.toNat (bs.toNat - dw.toNat), _, _, _, _, rfl, rfl, rfl, rfl,
    fun i hi => read_forney_of_lt _ _ _ _ hi _, fun a ha => read_forney_of_ge _ _ _ _ ha _,
    blockCorrected_polyFrame s _ _, fun i hi => ⟨coefAt_blockCorrected_syndromes s _ _ hi, ?_, ?_, ?_⟩,
    fun hv => exec_bcorr_of_corrected hl h hv, fun hv => exec_bcorr_of_failed hl h hv⟩
  · exact (coefAt_blockCorrected_ne s _ _ hi (by decide)).trans (coefAt_located_locator s _ _ hi)
  · exact (coefAt_blockCorrected_ne s _ _ hi (by decide)).trans (coefAt_located_evaluator s _ _ hi)
  · exact (coefAt_blockCorrected_ne s _ _ hi (by decide)).trans (coefAt_located_derivative s _ _ hi)

/-- Settles O20. -/
theorem bcorrLeavesACleanBlock : Obligations.BcorrLeavesACleanBlock := by
  intro bs dw s hdw hm
  have hl := not_illegalOperands_bcorr hdw hm
  cases h : blockClean s.cw bs.toNat (bs.toNat - dw.toNat) with
  | true =>
    refine ⟨_, exec_bcorr_of_clean hl h, fun _ => ⟨rfl, rfl, rfl, fun n hn _ i hi => ?_⟩, fun _ => h, .inl rfl⟩
    exact s.setPoly_polyByte_ne (n := 0) (by omega) _ hi
  | false =>
    cases hv : blockClean (correctedBlock s.cfg.maxPoly s.cw bs.toNat (bs.toNat - dw.toNat)) bs.toNat
        (bs.toNat - dw.toNat) with
    | true => exact ⟨_, exec_bcorr_of_corrected hl h hv, nofun, fun _ => hv, .inl rfl⟩
    | false => exact ⟨_, exec_bcorr_of_failed hl h hv, nofun, nofun, .inr rfl⟩

end Sys2Proof.Machine
end

section
/-!
BCORR restores a block (41_reed_solomon.md R113 (b)). The block's syndromes are the power sums of its errors, so the
locator is theirs; OMEGA and DSIGMA read as the evaluator and the derivative, and Forney's quotient is the error at each located
byte. Up to half as many errors as parity bytes cannot look clean either.
-/

namespace Sys2Proof.Machine

open Polynomial
open Sys2Proof.Stmt Sys2Proof.Codes

/-- The positions of the wrong bytes: position i is the byte `bs - 1 - i` (R107). -/
def errorPositions (cw sent : Memory) (bs : Nat) : Finset ℕ :=
  (Finset.range bs).filter (fun i => cw.read (bs - 1 - i) != sent.read (bs - 1 - i))

theorem mem_errorPositions {cw sent : Memory} {bs i : Nat} (hi : i < bs) :
    i ∈ errorPositions cw sent bs ↔ cw.read (bs - 1 - i) ≠ sent.read (bs - 1 - i) := by
  simp [errorPositions, hi]

/-- Position and index run through the block from its two ends. -/
theorem card_errorPositions (cw sent : Memory) (bs : Nat) :
    (errorPositions cw sent bs).card = (List.range bs).countP (fun a => cw.read a != sent.read a) := by
  rw [← card_filter_range, errorPositions, Finset.card_filter, Finset.card_filter]
  exact Finset.sum_range_reflect (fun a => if (cw.read a != sent.read a) = true then 1 else 0) bs

/-- A clean block of at most 255 bytes as sent, and the block as it stands with at most half as many wrong bytes as it
has parity. -/
structure FewErrors (m bs npar : Nat) (cw sent : Memory) : Prop where
  npar_pos : 1 ≤ npar
  npar_le : npar ≤ m
  bs_le : bs ≤ 255
  clean : blockClean sent bs npar = true
  few : 2 * (errorPositions cw sent bs).card ≤ npar

/-! ### The formal derivative -/

section Derivative

variable {f : GField} {K : Type} [Field K] (r : Reading f K)

include r in
/-- In characteristic 2 a number is its lowest bit. -/
theorem Reading.natCast_eq (n : Nat) : (n : K) = if n % 2 = 0 then 0 else 1 := by
  induction n with
  | zero => simp
  | succ n ih =>
    rw [Nat.cast_succ, ih]
    rcases Nat.mod_two_eq_zero_or_one n with h | h
    · rw [if_pos h, if_neg (by omega), zero_add]
    · rw [if_neg (by omega), if_pos (by omega), r.add_self]

theorem poly_deriv (m : Nat) (p : List Byte) : r.poly m (deriv m p) = derivative (r.poly m p) := by
  ext k
  rw [r.coeff_poly, coeff_derivative, r.coeff_poly, ← Nat.cast_succ, r.natCast_eq]
  by_cases hk : k < m
  · rw [if_pos hk, coeff_deriv m p hk]
    by_cases hlt : k + 1 < m
    · rcases Nat.mod_two_eq_zero_or_one k with h | h
      · rw [if_pos ⟨h, hlt⟩, if_pos hlt, if_neg (by omega), mul_one]
      · rw [if_neg (by omega), if_pos (by omega : (k + 1) % 2 = 0), mul_zero, r.val_zero]
    · rw [if_neg (by omega), if_neg hlt, zero_mul, r.val_zero]
  · rw [if_neg hk, if_neg (by omega : ¬ k + 1 < m), zero_mul]

end Derivative

/-! ### The evaluator -/

section Evaluator

variable {K : Type} [Field K] (r : Reading .gf256 K) {m npar : Nat} {I : Finset ℕ} {x e : ℕ → K} {sigma syn : List Byte}

theorem val_coeff_eevp {k : Nat} (hk : k < m) (hlt : k + 1 < npar) (hle : npar ≤ m) :
    r.val (coeff (eevp m sigma syn npar) k) = (r.poly m sigma * (r.poly m syn).divX).coeff k := by
  rw [coeff_eevp m sigma syn npar hk, if_pos hlt, r.val_gfSum, coeff_mul,
    Finset.Nat.sum_antidiagonal_eq_sum_range_succ fun i j => (r.poly m sigma).coeff i * (r.poly m syn).divX.coeff j]
  refine Finset.sum_congr rfl fun i hi => ?_
  have hi := Finset.mem_range.1 hi
  rw [r.val_mul trivial trivial, r.coeff_poly, if_pos (by omega), coeff_divX, r.coeff_poly, if_pos (by omega)]

/-- `SIGMA S1 mod X^(npar-1)` is the evaluator of the errors times their locators (R110). -/
theorem poly_eevp_eq_evaluator (hsigma : r.poly m sigma = locator I x)
    (hsyn : ∀ i < npar, r.val (coeff syn i) = powerSum I x e i) (hI : I.card ≤ npar - 1) (hle : npar ≤ m) :
    r.poly m (eevp m sigma syn npar) = evaluator I x (fun k => e k * x k) := by
  have hkey : KeyEquation (r.poly m syn).divX (npar - 1) I.card (locator I x) (evaluator I x fun k => e k * x k) := by
    refine keyEquation_locator fun i hi => ?_
    rw [coeff_divX, r.coeff_poly, if_pos (by omega), hsyn _ (by omega), powerSum_succ]
  have hhigh := (degree_lt_iff_coeff_zero _ _).1 hkey.evaluator_lt
  refine r.poly_eq (fun k hk => ?_) fun k hk => hhigh k (by omega)
  by_cases hlt : k + 1 < npar
  · have hzero := X_pow_dvd_iff.1 hkey.congruent k (by omega)
    rw [val_coeff_eevp r hk hlt hle, hsigma]
    exact sub_eq_zero.1 ((coeff_sub _ _ _).symm.trans hzero)
  · rw [coeff_eevp m sigma syn npar hk, if_neg hlt, r.val_zero, hhigh k (by omega)]

end Evaluator

/-! ### The block -/

section Block

variable {K : Type} [Field K] (r : Reading .gf256 K) {m bs npar : Nat} {cw sent : Memory}

/-- The error at a position. -/
def errorValue (cw sent : Memory) (bs i : Nat) : K := r.val (cw.read (bs - 1 - i) ^^^ sent.read (bs - 1 - i))

theorem errorValue_ne_zero {i : Nat} (hi : i ∈ errorPositions cw sent bs) : errorValue r cw sent bs i ≠ 0 := by
  have hlt := Finset.mem_range.1 (Finset.filter_subset _ _ hi)
  exact mt (r.eq_zero trivial) (mt BitVec.xor_eq_zero_iff.1 ((mem_errorPositions hlt).1 hi))

theorem errorValue_eq_zero {i : Nat} (hi : i < bs) (hnot : i ∉ errorPositions cw sent bs) :
    errorValue r cw sent bs i = 0 := by
  rw [mem_errorPositions hi, not_not] at hnot
  rw [errorValue, hnot, BitVec.xor_self]
  exact r.val_zero

theorem val_blockSyndrome (cw : Memory) (bs i : Nat) :
    r.val (blockSyndrome cw bs i) = ∑ j ∈ Finset.range bs, r.val (cw.read (bs - 1 - j)) * r.pos j ^ i := by
  rw [blockSyndrome_eq_gfSum, r.val_gfSum]
  exact Finset.sum_congr rfl fun j _ => by rw [r.val_mul trivial trivial, r.val_gfExp_mul]

/-- The syndromes of a block are the power sums of its errors. -/
theorem val_blockSyndrome_eq_powerSum (hclean : blockClean sent bs npar = true) {i : Nat} (hi : i < npar) :
    r.val (blockSyndrome cw bs i) = powerSum (errorPositions cw sent bs) r.pos (errorValue r cw sent bs) i := by
  have hsent : r.val (blockSyndrome sent bs i) = 0 := by rw [blockClean_iff.1 hclean i hi, r.val_zero]
  have herrors : powerSum (errorPositions cw sent bs) r.pos (errorValue r cw sent bs) i =
      ∑ j ∈ Finset.range bs, errorValue r cw sent bs j * r.pos j ^ i := by
    refine Finset.sum_subset (Finset.filter_subset _ _) fun j hj hnot => ?_
    rw [errorValue_eq_zero r (Finset.mem_range.1 hj) hnot, zero_mul]
  rw [← sub_zero (r.val _), ← hsent, val_blockSyndrome, val_blockSyndrome, ← Finset.sum_sub_distrib, herrors]
  exact Finset.sum_congr rfl fun j _ => by rw [errorValue, r.val_xor_sub, sub_mul]

theorem FewErrors.positions_subset (h : FewErrors m bs npar cw sent) :
    errorPositions cw sent bs ⊆ Finset.range (GField.p .gf256) :=
  (Finset.filter_subset _ _).trans (Finset.range_subset_range.2 h.bs_le)

theorem FewErrors.injOn (h : FewErrors m bs npar cw sent) : Set.InjOn r.pos (errorPositions cw sent bs) :=
  r.pos_injOn.mono (Finset.coe_subset.2 h.positions_subset)

theorem FewErrors.val_coeff_syndromes (h : FewErrors m bs npar cw sent) {i : Nat} (hi : i < npar) :
    r.val (coeff (blockSyndromes m cw bs npar) i) =
      powerSum (errorPositions cw sent bs) r.pos (errorValue r cw sent bs) i := by
  have hle := h.npar_le
  rw [coeff_blockSyndromes m cw bs npar (by omega), if_pos hi, val_blockSyndrome_eq_powerSum r h.clean hi]

theorem FewErrors.poly_locator (h : FewErrors m bs npar cw sent) :
    r.poly m (blockLocator m cw bs npar) = locator (errorPositions cw sent bs) r.pos :=
  poly_bm_eq_locator r h.npar_le (h.npar_pos.trans h.npar_le) (fun _ hi => h.val_coeff_syndromes r hi) h.few
    (h.injOn r) (fun k _ => r.pos_ne_zero k) fun _ hk => errorValue_ne_zero r hk

theorem FewErrors.poly_evaluator (h : FewErrors m bs npar cw sent) :
    r.poly m (blockEvaluator m cw bs npar) =
      evaluator (errorPositions cw sent bs) r.pos (fun k => errorValue r cw sent bs k * r.pos k) := by
  have hpos := h.npar_pos
  have hfew := h.few
  exact poly_eevp_eq_evaluator r (h.poly_locator r) (fun _ hi => h.val_coeff_syndromes r hi) (by omega) h.npar_le

/-- What Forney's method computes at a position is its error. -/
theorem FewErrors.val_forneyValue (h : FewErrors m bs npar cw sent) {i : Nat} (hi : i < bs) :
    r.val (forneyValue m (blockLocator m cw bs npar) (blockEvaluator m cw bs npar)
      (deriv m (blockLocator m cw bs npar)) i) = errorValue r cw sent bs i := by
  have hp : i < GField.p .gf256 := hi.trans_le h.bs_le
  have hroot := peval_eq_zero_iff_mem r (h.poly_locator r) h.positions_subset hp
  have heval (p : List Byte) :
      r.val (peval .gf256 m p (gfExp .gf256 ((255 - i) % 255))) = (r.poly m p).eval (r.pos i)⁻¹ := by
    rw [r.val_peval m p (isElem_gfExp _ _) (gfExp_ne_zero _ _)]
    exact congrArg (eval · _) (r.val_gfExp_neg hp.le)
  by_cases hmem : i ∈ errorPositions cw sent bs
  · obtain ⟨hne, hquot⟩ := forney_quotient (e := errorValue r cw sent bs) (h.injOn r) hmem (r.pos_ne_zero i)
    have hsd := heval (deriv m (blockLocator m cw bs npar))
    rw [poly_deriv, h.poly_locator r] at hsd
    have hsd0 : peval .gf256 m (deriv m (blockLocator m cw bs npar)) (gfExp .gf256 ((255 - i) % 255)) ≠ 0 := fun h0 =>
      hne (by rw [← hsd, h0, r.val_zero])
    rw [forneyValue, if_pos ⟨hroot.2 hmem, hsd0⟩, r.val_div (isElem_peval _ _ _) (isElem_peval _ _ _) hsd0, heval,
      h.poly_evaluator r, hsd, hquot, mul_div_cancel_right₀ _ hne, r.neg_eq]
  · rw [forneyValue, if_neg fun hc => hmem (hroot.1 hc.1), r.val_zero, errorValue_eq_zero r hi hmem]

end Block

variable {m bs npar : Nat} {cw sent : Memory}

theorem FewErrors.read_correctedBlock (h : FewErrors m bs npar cw sent) {a : Nat} (ha : a < bs) :
    (correctedBlock m cw bs npar).read a = sent.read a := by
  obtain ⟨K, _, ⟨r⟩⟩ := exists_reading .gf256
  obtain ⟨i, hi, rfl⟩ : ∃ i < bs, a = bs - 1 - i := ⟨bs - 1 - a, by omega, by omega⟩
  have hvalue := r.val_inj trivial trivial (h.val_forneyValue r hi)
  rw [correctedBlock, read_forney_of_lt _ _ _ _ hi, hvalue, ← BitVec.xor_assoc, BitVec.xor_self]
  exact BitVec.zero_xor

/-- A block with few errors that looks clean has none. -/
theorem FewErrors.read_of_clean (h : FewErrors m bs npar cw sent) (hc : blockClean cw bs npar = true) {a : Nat}
    (ha : a < bs) : cw.read a = sent.read a := by
  obtain ⟨K, _, ⟨r⟩⟩ := exists_reading .gf256
  have hfew := h.few
  have hempty : errorPositions cw sent bs = ∅ := by
    refine eq_empty_of_powerSum_eq_zero (n := npar) (fun i hi => ?_) (by omega) (h.injOn r) (fun k _ => r.pos_ne_zero k)
      fun _ hk => errorValue_ne_zero r hk
    rw [← val_blockSyndrome_eq_powerSum r h.clean hi, blockClean_iff.1 hc i hi, r.val_zero]
  obtain ⟨i, hi, rfl⟩ : ∃ i < bs, a = bs - 1 - i := ⟨bs - 1 - a, by omega, by omega⟩
  have hnot : i ∉ errorPositions cw sent bs := hempty ▸ Finset.notMem_empty i
  rwa [mem_errorPositions hi, not_not] at hnot

/-- BCORR restores the block and leaves the bytes beyond it. -/
theorem exec_bcorr_restores {bs dw : Byte} {s : State} {sent : Memory} (hdw : dw.toNat < bs.toNat)
    (h : FewErrors s.cfg.maxPoly bs.toNat (bs.toNat - dw.toNat) s.cw sent) :
    ∃ t, exec (.bcorr bs dw) s = .next t ∧ t.err = 0 ∧ (∀ a < bs.toNat, t.cw.read a = sent.read a) ∧
      ∀ a, bs.toNat ≤ a → t.cw.read a = s.cw.read a := by
  have hl := not_illegalOperands_bcorr hdw h.npar_le
  cases hc : blockClean s.cw bs.toNat (bs.toNat - dw.toNat) with
  | true => exact ⟨_, exec_bcorr_of_clean hl hc, rfl, fun _ ha => h.read_of_clean hc ha, fun _ _ => rfl⟩
  | false =>
    have hv := (blockClean_congr (fun _ ha => h.read_correctedBlock ha) _).trans h.clean
    exact ⟨_, exec_bcorr_of_corrected hl hc hv, rfl, fun _ ha => h.read_correctedBlock ha,
      fun _ ha => read_forney_of_ge _ _ _ _ ha _⟩

theorem fewErrors_of_countP {bs dw : Byte} {s : State} {sent : Memory} (hdw : dw.toNat < bs.toNat)
    (hm : bs.toNat - dw.toNat ≤ s.cfg.maxPoly) (hclean : blockClean sent bs.toNat (bs.toNat - dw.toNat) = true)
    (hfew : 2 * (List.range bs.toNat).countP (fun a => s.cw.read a != sent.read a) ≤ bs.toNat - dw.toNat) :
    FewErrors s.cfg.maxPoly bs.toNat (bs.toNat - dw.toNat) s.cw sent where
  npar_pos := by omega
  npar_le := hm
  bs_le := Nat.le_of_lt_succ bs.isLt
  clean := hclean
  few := by rwa [card_errorPositions]

/-- Settles O22. -/
theorem bcorrRestoresUpToCapacity : Obligations.BcorrRestoresUpToCapacity := by
  intro bs dw s sent _ hdw hm hclean hfew
  obtain ⟨t, hexec, herr, hread, -⟩ := exec_bcorr_restores hdw (fewErrors_of_countP hdw hm hclean hfew)
  exact ⟨t, hexec, herr, hread⟩

/-- Settles O21: one wrong byte is within the capacity of two parity bytes. -/
theorem bcorrRestoresOneWrongByte : Obligations.BcorrRestoresOneWrongByte := by
  intro bs dw s sent j e _ hdw hm hj hclean hcw
  have hother (a : Nat) (ha : a ≠ j) : s.cw.read a = sent.read a := (hcw a).trans (if_neg ha)
  have hone : (List.range bs.toNat).countP (fun a => s.cw.read a != sent.read a) ≤ 1 := by
    refine (List.countP_mono_left (q := (· == j)) fun a _ h => ?_).trans
      (List.nodup_iff_count_le_one.1 List.nodup_range j)
    exact beq_iff_eq.2 (not_imp_comm.1 (hother a) (bne_iff_ne.1 h))
  have hlt : dw.toNat < bs.toNat := by omega
  obtain ⟨t, hexec, herr, hread, hbeyond⟩ :=
    exec_bcorr_restores hlt (fewErrors_of_countP hlt hm hclean (by omega))
  refine ⟨t, hexec, herr, fun a => ?_⟩
  rcases Nat.lt_or_ge a bs.toNat with ha | ha
  · exact hread a ha
  · rw [hbeyond a ha, hother a (by omega)]

end Sys2Proof.Machine
end

section
/-!
VERS and TAKE (42_bitstream.md R120, R123): one equation for each way either command ends.
-/

namespace Sys2Proof.Machine

open Sys2Proof.Stmt

variable {s : State}

/-! ### VERS -/

theorem exec_vers_of_mod_ne {size : Byte} (h : size.toNat % 4 ≠ 1) :
    exec (.vers size) s = .next (({ s with version := 0 } : State).raise .invalidGridSize) := by
  rw [exec, execVers, if_pos h]

theorem exec_vers_of_out_of_range {size : Byte} (h : size.toNat % 4 = 1) (hrange : size.toNat < 21 ∨ 177 < size.toNat) :
    exec (.vers size) s = .next (({ s with version := 0 } : State).raise .invalidVersion) := by
  have hv : ((size.toNat : Int) - 17) / 4 < 1 ∨ 40 < ((size.toNat : Int) - 17) / 4 := by omega
  rw [exec, execVers, if_neg (not_not.2 h)]
  exact if_pos hv

theorem exec_vers_of_version {size : Byte} {v : Nat} (h1 : 1 ≤ v) (h40 : v ≤ 40) (hsize : size.toNat = 4 * v + 17) :
    exec (.vers size) s = .next ({ s with version := BitVec.ofNat 6 v } : State).succeed := by
  have hgrid : ¬ size.toNat % 4 ≠ 1 := by omega
  have hv : ((size.toNat : Int) - 17) / 4 = v := by omega
  have hin : ¬ ((v : Int) < 1 ∨ 40 < (v : Int)) := by omega
  rw [exec, execVers, if_neg hgrid, hv]
  exact if_neg hin

/-- Settles O23. -/
theorem versSetsVersionOrRaises : Obligations.VersSetsVersionOrRaises := fun _ =>
  ⟨decodes_word (o := .vers) (f := .gf256) (pd := 0) (ps := 0) (b := 0) rfl rfl,
    fun _ => ⟨exec_vers_of_mod_ne, exec_vers_of_out_of_range, fun _ => exec_vers_of_version⟩⟩

/-! ### TAKE -/

theorem takeLegal_eq_true {n : Byte} (hn : n.toNat ≤ 32) (hsource : s.databits.toNat ≤ 8 * s.cfg.dataCap) :
    s.takeLegal n = true := by
  simp only [State.takeLegal, State.bitSourceLegal, hn, hsource, decide_true, Bool.and_self]

theorem exec_take_of_fits {n : Byte} (hlegal : s.takeLegal n = true) (hfits : n.toNat ≤ left s) :
    exec (.take n) s = .next ((s.advance n.toNat).setRes (bits s s.bitptr.toNat n.toNat)).succeed := by
  rw [exec, execTake, if_pos hlegal, State.field_of_le hfits, streamBits_eq_bits]

theorem exec_take_of_short {n : Byte} (hlegal : s.takeLegal n = true) (hshort : left s < n.toNat) :
    exec (.take n) s = .next (s.raise .dataUnderflow) := by
  rw [exec, execTake, if_pos hlegal, State.field_none.2 hshort]

/-- Settles O25: illegal operands, a field that fits, and one that does not. -/
theorem takeReadsTheNextBits : Obligations.TakeReadsTheNextBits := fun n =>
  ⟨decodes_word (o := .take) (f := .gf256) (pd := 0) (ps := 0) (b := 0) rfl rfl, fun _ =>
    ⟨exec_of_illegalOperands (i := .take n) rfl,
      fun hn hsource hfits => exec_take_of_fits (takeLegal_eq_true hn hsource) hfits,
      fun hn hsource hshort => exec_take_of_short (takeLegal_eq_true hn hsource) hshort⟩⟩

end Sys2Proof.Machine
end

section
/-!
PAYLOAD (42_bitstream.md R125, R126, R135): its loop never uses up the bound on its turns, and its ending leaves a payload
terminated inside its buffer.
-/

namespace Sys2Proof.Machine

open Sys2Proof.Stmt

/-- What each operation of the decoder keeps is a relation of an engine to itself. -/
theorem simulation_of_invariant {P : State → Prop}
    (advance : ∀ {s : State} {n : Nat}, P s → n ≤ s.remaining → P (s.advance n))
    (emit : ∀ {s : State} {bs : List Byte}, P s → s.plen.toNat + bs.length ≤ s.cfg.payloadCap → P (s.emit bs))
    (noteType : ∀ {s : State} (m : DataMode), P s → P (s.noteType m))
    (setEci : ∀ {s : State} (e : Nat), P s → P (s.setEci e)) : Simulation fun s t => s = t ∧ P s where
  stream := fun ⟨hst, _⟩ => hst ▸ .refl _
  advance := fun ⟨hst, h⟩ hn => ⟨hst ▸ rfl, advance h hn⟩
  emit := fun ⟨hst, h⟩ hroom => ⟨hst ▸ rfl, emit h hroom⟩
  noteType m := fun ⟨hst, h⟩ => ⟨hst ▸ rfl, noteType m h⟩
  setEci e := fun ⟨hst, h⟩ => ⟨hst ▸ rfl, setEci e h⟩

/-! ### The loop runs to its end -/

/-- The pointer is in the stream, with at most b bits to go. -/
structure InStream (b : Nat) (s : State) : Prop where
  ptr : s.bitptr.toNat ≤ s.databits.toNat
  bound : s.remaining ≤ b

theorem InStream.advance {b n : Nat} {s : State} (h : InStream b s) (hn : n ≤ s.remaining) :
    InStream (b - n) (s.advance n) where
  ptr := by
    have hle := hn
    unfold State.remaining at hle
    have hptr := h.ptr
    rw [State.advance_bitptr_toNat hn hptr, State.advance_databits]
    omega
  bound := by
    have hbound := h.bound
    rw [State.advance_remaining hn h.ptr]
    omega

theorem InStream.mono {b c : Nat} {s : State} (h : InStream b s) (hbc : b ≤ c) : InStream c s :=
  ⟨h.ptr, h.bound.trans hbc⟩

theorem simulation_inStream (b : Nat) : Simulation fun s t => s = t ∧ InStream b s :=
  simulation_of_invariant (fun {_ n} h hn => (h.advance hn).mono (Nat.sub_le b n)) (fun h _ => { h with })
    (fun _ h => { h with }) (fun _ h => { h with })

theorem InStream.turn {b : Nat} {s t : State} (h : InStream b s) {mode : BitVec 4}
    (ht : turn mode s = .more t) : InStream b t := by
  have hrel := (simulation_inStream b).turn mode ⟨rfl, h⟩
  rw [ht] at hrel
  cases hrel with
  | more h' =>
    obtain ⟨-, hin⟩ := h'
    exact hin

/-- With more turns than the stream holds indicators, the bounded loop is a run of the loop with no bound (log entry 10). -/
theorem streamRun_payloadLoop {n : Nat} {s : State} (h : InStream (4 * n - 1) s) (hn : 0 < n) :
    StreamRun s ((payloadLoop n s).2.finish (payloadLoop n s).1) := by
  induction n generalizing s with
  | zero => exact absurd hn (Nat.lt_irrefl 0)
  | succ n ih =>
    unfold payloadLoop
    split
    next hshort => exact .short hshort
    next hlong =>
      have hfits : 4 ≤ s.remaining := by omega
      have hmode : (s.take 4).1 = bits s s.bitptr.toNat 4 := streamBits_eq_bits s _ 4
      rw [hmode]
      cases ht : turn (BitVec.ofNat 4 (bits s s.bitptr.toNat 4)) (s.take 4).2 with
      | more t =>
        have hbound := h.bound
        have hrest : InStream (4 * n - 1) t := ((h.advance hfits).turn ht).mono (by omega)
        exact .onward hfits ht (ih hrest (by omega))
      | stop e t => exact .ended hfits ht

theorem inStream_freshRecord (s : State) : InStream s.freshRecord.remaining s.freshRecord :=
  ⟨Nat.zero_le _, le_rfl⟩

theorem streamRun_decodeStream (s : State) : StreamRun s.freshRecord s.freshRecord.decodeStream :=
  streamRun_payloadLoop ((inStream_freshRecord s).mono (by omega)) (Nat.succ_pos _)

/-- Settles O26: illegal, no version, and a run of the loop. -/
theorem payloadRunsTheStreamToItsEnd : Obligations.PayloadRunsTheStreamToItsEnd := by
  refine ⟨decodes_of_encode_eq rfl rfl, fun s => ⟨?_, ?_, ?_⟩⟩
  · exact exec_of_illegalOperands (i := .payload) rfl
  · intro hsource hv hcap
    have hplen : s.freshRecord.closeRecord.plen = 0 := if_neg (Nat.not_le.2 hcap)
    refine ⟨s.freshRecord.closeRecord.payload, ?_, ?_, fun a ha => ?_⟩
    · rw [exec_payload_of_version_eq_zero (decide_eq_true hsource) hv, State.finish_some_eq, State.raise, hplen]
      rfl
    · rw [State.closeRecord_read, hplen]
      rfl
    · rw [State.closeRecord_read, hplen]
      exact if_neg ha.ne
  · intro hsource hv
    exact ⟨_, exec_payload_of_version_ne_zero (decide_eq_true hsource) hv, streamRun_decodeStream s⟩

/-! ### The payload is terminated -/

/-- What the loop keeps of the record: it fits the buffer, the bytes above it are those of `mem`, and the pointer is in the
stream. -/
structure RecordFits (mem : Memory) (s : State) : Prop where
  ptr : s.bitptr.toNat ≤ s.databits.toNat
  cap : s.cfg.payloadCap ≤ 32768
  plenLe : s.plen.toNat ≤ s.cfg.payloadCap
  above : ∀ a, s.plen.toNat ≤ a → s.payload.read a = mem.read a
  dtypeCode : s.dtype = 0 ∨ s.dtype = 1 ∨ s.dtype = 2 ∨ s.dtype = 4 ∨ s.dtype = 8

theorem emit_plen_toNat {s : State} {bs : List Byte} (h : s.plen.toNat + bs.length < 2 ^ 16) :
    (s.emit bs).plen.toNat = s.plen.toNat + bs.length := by
  rw [State.emit_plen, BitVec.toNat_add, BitVec.toNat_ofNat]
  omega

theorem noteType_dtypeCode {s : State} (m : DataMode)
    (h : s.dtype = 0 ∨ s.dtype = 1 ∨ s.dtype = 2 ∨ s.dtype = 4 ∨ s.dtype = 8) :
    (s.noteType m).dtype = 0 ∨ (s.noteType m).dtype = 1 ∨ (s.noteType m).dtype = 2 ∨ (s.noteType m).dtype = 4 ∨
      (s.noteType m).dtype = 8 := by
  rw [State.noteType_dtype]
  split
  · cases m <;> simp [DataMode.code]
  · exact h

variable {mem : Memory}

theorem RecordFits.emit {s : State} (h : RecordFits mem s) {bs : List Byte}
    (hroom : s.plen.toNat + bs.length ≤ s.cfg.payloadCap) : RecordFits mem (s.emit bs) := by
  have hcap := h.cap
  have hplen := emit_plen_toNat (s := s) (bs := bs) (by omega)
  exact { h with
    plenLe := by rw [hplen]; exact hroom
    above := fun a ha => by
      rw [State.emit_read, if_neg (by omega)]
      exact h.above a (by omega) }

theorem simulation_recordFits (mem : Memory) : Simulation fun s t => s = t ∧ RecordFits mem s :=
  simulation_of_invariant
    (fun h hn => { h with ptr := (InStream.advance ⟨h.ptr, le_rfl⟩ hn).ptr })
    (fun h hroom => h.emit hroom) (fun m h => { h with dtypeCode := noteType_dtypeCode m h.dtypeCode })
    (fun _ h => { h with })

/-- The record once closed (R135): terminated inside the buffer, the bytes above it those of `mem`. -/
structure RecordTerminated (mem : Memory) (s : State) : Prop where
  ptr : s.bitptr.toNat ≤ s.databits.toNat
  plenLe : s.plen.toNat ≤ s.cfg.payloadCap - 1
  nul : s.payload.read s.plen.toNat = 0
  above : ∀ a, s.plen.toNat < a → s.payload.read a = mem.read a
  dtypeCode : s.dtype = 0 ∨ s.dtype = 1 ∨ s.dtype = 2 ∨ s.dtype = 4 ∨ s.dtype = 8

theorem RecordFits.closeRecord {s : State} (h : RecordFits mem s) (hcap : 0 < s.cfg.payloadCap) :
    RecordTerminated mem s.closeRecord where
  ptr := h.ptr
  plenLe := Nat.le_sub_one_of_lt (State.closeRecord_plen_lt hcap h.plenLe)
  nul := by rw [State.closeRecord_read, if_pos rfl]
  above a ha := by
    have hplen := State.closeRecord_plen_toNat hcap
    have hle := h.plenLe
    rw [State.closeRecord_read, if_neg ha.ne]
    exact h.above a (by split at hplen <;> omega)
  dtypeCode := h.dtypeCode

theorem RecordTerminated.finish {s : State} (h : RecordTerminated mem s.closeRecord) (e : Option ErrKind) :
    RecordTerminated mem (s.finish e) := by
  cases e <;> exact { h with }

/-- `finish` after a run from a fresh record: PAYLOAD's outputs and nothing else. -/
theorem frame_finish {s u : State} (hu : SameButRecord s.freshRecord u) (e : Option ErrKind) :
    u.finish e = { s with
      bitptr := (u.finish e).bitptr, plen := (u.finish e).plen, dtype := (u.finish e).dtype, eci := (u.finish e).eci
      payload := (u.finish e).payload, err := (u.finish e).err, statusErrs := (u.finish e).statusErrs
      statusIll := false } := by
  unfold SameButRecord at hu
  rw [hu]
  cases e <;> rfl

/-- The kinds PAYLOAD can end with (R135, R152). -/
def ErrKind.OfPayload (k : ErrKind) : Prop := k = .invalidVersion ∨ k.OfStream

theorem finish_err {s : State} {e : Option ErrKind} (he : ∀ k, e = some k → k.OfPayload) :
    (s.finish e).err = 0 ∨ (s.finish e).err = 2 ∨ (s.finish e).err = 5 ∨ (s.finish e).err = 6 := by
  cases e with
  | none => exact .inl rfl
  | some k =>
    rcases he k rfl with rfl | rfl | rfl
    · exact .inr (.inl rfl)
    · exact .inr (.inr (.inl rfl))
    · exact .inr (.inr (.inr rfl))

theorem finish_statusErrs_of_err_eq_zero {s : State} {e : Option ErrKind} (h : (s.finish e).err = 0) :
    (s.finish e).statusErrs = s.statusErrs := by
  cases e with
  | none => rfl
  | some k => cases k <;> cases h

theorem finish_statusErrs_of_err_ne_zero {s : State} {e : Option ErrKind} (h : (s.finish e).err ≠ 0) :
    (s.finish e).statusErrs = true := by
  cases e with
  | none => exact absurd rfl h
  | some k => rfl

theorem recordFits_freshRecord {s : State} (hcap : s.cfg.payloadCap ≤ 32768) : RecordFits s.payload s.freshRecord where
  ptr := Nat.zero_le _
  cap := hcap
  plenLe := Nat.zero_le _
  above _ _ := rfl
  dtypeCode := .inl rfl

/-- A legal PAYLOAD closes a record that fits its buffer, the fresh one or the one its loop ends with. -/
theorem exec_payload_of_legal {s : State} (hlegal : s.bitSourceLegal = true) (hcap : s.cfg.payloadCap ≤ 32768) :
    ∃ u e, exec .payload s = .next (u.finish e) ∧ SameButRecord s.freshRecord u ∧ RecordFits s.payload u ∧
      ∀ k, e = some k → k.OfPayload := by
  have hfresh := recordFits_freshRecord hcap
  by_cases hv : s.version = 0
  · exact ⟨_, _, exec_payload_of_version_eq_zero hlegal hv, .refl _, hfresh, fun _ hk => .inl (Option.some.inj hk).symm⟩
  · obtain ⟨-, -, -, hloop⟩ :=
      (simulation_recordFits s.payload).payloadLoop (s.freshRecord.remaining / 4 + 1) ⟨rfl, hfresh⟩
    exact ⟨_, _, exec_payload_of_version_ne_zero hlegal hv, payloadLoop_state _ _, hloop,
      fun _ hk => .inr (ofStream_of_payloadLoop hk)⟩

/-- Settles O27. -/
theorem payloadAlwaysNulTerminates : Obligations.PayloadAlwaysNulTerminates := by
  rintro s ⟨-, -, hpos, hcap, -⟩ hsource
  obtain ⟨u, e, hexec, hu, hfits, he⟩ := exec_payload_of_legal (decide_eq_true hsource) hcap
  have hcfg : u.cfg = s.cfg := hu.cfg_eq
  have hframe := frame_finish hu e
  have hend := (hfits.closeRecord (by rw [hcfg]; omega)).finish e
  have hendCfg : (u.finish e).cfg = s.cfg := by rw [hframe]
  have hendBits : (u.finish e).databits = s.databits := by rw [hframe]
  have herrs : u.statusErrs = s.statusErrs := hu.statusErrs_eq
  exact ⟨_, hexec, hframe, hendCfg ▸ hend.plenLe, hend.nul, hend.above, hendBits ▸ hend.ptr, hend.dtypeCode,
    finish_err he, fun h => (finish_statusErrs_of_err_eq_zero h).trans herrs, finish_statusErrs_of_err_ne_zero⟩

end Sys2Proof.Machine
end

section
/-!
Segments that emit nothing (42_bitstream.md R132, R133, R135): where the ending places the nul, the end of the message, the
ECI designator, and the errors of a count field.
-/

namespace Sys2Proof.Machine

open Sys2Proof.Stmt

variable {s : State}

/-! ### The ending -/

theorem closeRecord_plen_eq_nulAt (hcap : 0 < s.cfg.payloadCap) (hplen : s.plen.toNat ≤ s.cfg.payloadCap) :
    s.closeRecord.plen.toNat = nulAt s := by
  rw [State.closeRecord_plen_toNat hcap, nulAt]
  split_ifs <;> omega

theorem closeRecord_plen_eq_ofNat (hcap : 0 < s.cfg.payloadCap) (hplen : s.plen.toNat ≤ s.cfg.payloadCap) :
    s.closeRecord.plen = BitVec.ofNat 16 (nulAt s) := by
  rw [← closeRecord_plen_eq_nulAt hcap hplen, BitVec.ofNat_toNat, BitVec.setWidth_eq]

theorem nulPlaced_closeRecord (hcap : 0 < s.cfg.payloadCap) (hplen : s.plen.toNat ≤ s.cfg.payloadCap) :
    NulPlaced s s.closeRecord.payload := by
  intro a
  rw [State.closeRecord_read, closeRecord_plen_eq_nulAt hcap hplen]
  exact if_congr eq_comm rfl rfl

/-- The end of the message: no error, the nul placed (R133, R135). -/
theorem finish_none_places_nul (hcap : 0 < s.cfg.payloadCap) (hplen : s.plen.toNat ≤ s.cfg.payloadCap) :
    ∃ mem : Memory, s.finish none = { s with
        plen := BitVec.ofNat 16 (nulAt s), payload := mem, err := 0, statusIll := false } ∧ NulPlaced s mem := by
  refine ⟨s.closeRecord.payload, ?_, nulPlaced_closeRecord hcap hplen⟩
  rw [State.finish_none_eq, State.succeed, closeRecord_plen_eq_ofNat hcap hplen]
  rfl

/-- The end with an error before any byte: the error raised, the nul placed (R135, R156). -/
theorem finish_some_places_nul (k : ErrKind) (hcap : 0 < s.cfg.payloadCap) (hplen : s.plen.toNat ≤ s.cfg.payloadCap) :
    ∃ mem : Memory, s.finish (some k) = { s with
        plen := BitVec.ofNat 16 (nulAt s), payload := mem, err := k.code, statusErrs := true, statusIll := false } ∧
      NulPlaced s mem := by
  refine ⟨s.closeRecord.payload, ?_, nulPlaced_closeRecord hcap hplen⟩
  rw [State.finish_some_eq, State.raise, closeRecord_plen_eq_ofNat hcap hplen]
  rfl

theorem exec_segEnd (m : BitVec 4) : exec (.segEnd m) s = .next (s.finish none) := rfl

/-- Settles O35: the nul goes to `PLEN`, or in place of the last byte of a full buffer. -/
theorem segEndTerminatesThePayload : Obligations.SegEndTerminatesThePayload := by
  intro m s hcap _
  refine ⟨fun hlt => ?_, fun hfull => ?_⟩
  · obtain ⟨mem, hfinish, hnul⟩ := finish_none_places_nul (s := s) (by omega) hlt.le
    have hat : nulAt s = s.plen.toNat := if_neg hlt.ne
    refine ⟨mem, ?_, fun a => hat ▸ hnul a⟩
    rw [exec_segEnd, hfinish, hat, BitVec.ofNat_toNat, BitVec.setWidth_eq]
  · obtain ⟨mem, hfinish, hnul⟩ := finish_none_places_nul (s := s) (by omega) hfull.le
    have hat : nulAt s = s.cfg.payloadCap - 1 := if_pos hfull
    refine ⟨mem, ?_, fun a => hat ▸ hnul a⟩
    rw [exec_segEnd, hfinish, hat]

/-! ### Fields one after another -/

/-- Two adjacent fields are one (20_memory.md R42). -/
theorem bits_add (s : State) (k m n : Nat) : bits s k (m + n) = bits s k m * 2 ^ n + bits s (k + m) n := by
  induction n with
  | zero => rw [pow_zero, mul_one]; rfl
  | succ n ih =>
    rw [← Nat.add_assoc, bits_succ, bits_succ, ih, pow_succ, Nat.add_assoc k m n]
    ring

@[simp] theorem bits_advance (s : State) (j k n : Nat) : bits (s.advance j) k n = bits s k n := rfl

theorem field_of_le_left {n : Nat} (h : n ≤ left s) : s.field n = some (bits s s.bitptr.toNat n, s.advance n) := by
  rw [State.field_of_le h, streamBits_eq_bits]

theorem advance_advance (s : State) (m n : Nat) : (s.advance m).advance n = s.advance (m + n) := by
  have hptr : s.bitptr + BitVec.ofNat 32 m + BitVec.ofNat 32 n = s.bitptr + BitVec.ofNat 32 (m + n) := by
    rw [BitVec.ofNat_add, BitVec.add_assoc]
  simp only [State.advance, hptr]

/-- A field of some bits that fits begins inside the stream. -/
theorem bitptr_le_of_le_left {n : Nat} (hn : 0 < n) (h : n ≤ left s) : s.bitptr.toNat ≤ s.databits.toNat := by
  unfold left at h
  omega

theorem advance_bitptr_of_le_left {n : Nat} (hn : 0 < n) (h : n ≤ left s) :
    (s.advance n).bitptr.toNat = s.bitptr.toNat + n :=
  State.advance_bitptr_toNat h (bitptr_le_of_le_left hn h)

theorem left_advance {n : Nat} (hn : 0 < n) (h : n ≤ left s) : left (s.advance n) = left s - n :=
  State.advance_remaining h (bitptr_le_of_le_left hn h)

theorem advance_bitptr_le {n : Nat} (hn : 0 < n) (h : n ≤ left s) :
    (s.advance n).bitptr.toNat ≤ (s.advance n).databits.toNat := by
  rw [advance_bitptr_of_le_left hn h, State.advance_databits]
  unfold left at h
  omega

/-! ### The designator -/

/-- How many bits follow the first 8 of a designator that begins with e (30_encoding.md R68). -/
def designatorRest (e : Nat) : Nat := if e / 64 = 2 then 8 else if e / 32 = 6 then 16 else 0

theorem eciSegment_of_short (h : left s < 8) : eciSegment s = .stopped .dataUnderflow s := by
  rw [eciSegment, State.field_none.2 h]

theorem eciSegment_of_fits {e : Nat} (he : e = bits s s.bitptr.toNat 8) (h : 8 + designatorRest e ≤ left s) :
    eciSegment s = .decoded
      ((s.advance (8 + designatorRest e)).setEci (bits s s.bitptr.toNat (8 + designatorRest e))) := by
  have h8 : 8 ≤ left s := by omega
  have hptr := advance_bitptr_of_le_left (by decide) h8
  have hrest : designatorRest e ≤ left (s.advance 8) := by rw [left_advance (by decide) h8]; omega
  have hfield := field_of_le_left hrest
  rw [bits_advance, hptr, advance_advance] at hfield
  unfold designatorRest at hfield ⊢
  simp only [eciSegment, field_of_le_left h8, ← he]
  split_ifs at hfield ⊢
  · simp only [hfield, bits_add, ← he]
  · simp only [hfield, bits_add, ← he]
  · rw [Nat.add_zero, ← he]

theorem eciSegment_of_cut {e : Nat} (he : e = bits s s.bitptr.toNat 8) (h8 : 8 ≤ left s)
    (h : left s < 8 + designatorRest e) :
    eciSegment s = .stopped .dataUnderflow (s.advance 8) := by
  have hrest : left (s.advance 8) < designatorRest e := by rw [left_advance (by decide) h8]; omega
  have hfield := State.field_none.2 hrest
  unfold designatorRest at hrest hfield
  simp only [eciSegment, field_of_le_left h8, ← he]
  split_ifs at hrest hfield ⊢
  · simp only [hfield]
  · simp only [hfield]
  · exact absurd hrest (Nat.not_lt_zero _)

theorem exec_segEci_of_fits {e : Nat} (he : e = bits s s.bitptr.toNat 8) (h : 8 + designatorRest e ≤ left s) :
    exec .segEci s = .next
      ((s.advance (8 + designatorRest e)).setEci (bits s s.bitptr.toNat (8 + designatorRest e))) := by
  rw [exec, execSegEci, eciTurn, eciSegment_of_fits he h]
  rfl

theorem exec_segEci_of_stopped {k : ErrKind} {t : State} (h : eciSegment s = .stopped k t) :
    exec .segEci s = .next (t.finish (some k)) := by
  rw [exec, execSegEci, eciTurn, h]
  rfl

/-- Settles O34: the designator's length is that of its leading bits, and it is in the stream or cut short. -/
theorem segEciStoresDesignator : Obligations.SegEciStoresDesignator := by
  intro s e he
  refine ⟨fun hleft h2 => ?_, fun hleft h6 => ?_, fun hleft h2 h6 => ?_,
    fun hcap hplen => ⟨fun hshort => ?_, fun h8 hcut => ?_⟩⟩
  · have hrest : designatorRest e = 8 := if_pos h2
    rw [exec_segEci_of_fits he (by omega), hrest]
    rfl
  · have hrest : designatorRest e = 16 := by rw [designatorRest, if_neg (by omega), if_pos h6]
    rw [exec_segEci_of_fits he (by omega), hrest]
    rfl
  · have hrest : designatorRest e = 0 := by rw [designatorRest, if_neg h2, if_neg h6]
    rw [exec_segEci_of_fits he (by omega), hrest, he]
    rfl
  · rw [exec_segEci_of_stopped (eciSegment_of_short hshort)]
    obtain ⟨mem, hfinish, hnul⟩ := finish_some_places_nul .dataUnderflow hcap hplen
    exact ⟨mem, congrArg _ hfinish, hnul⟩
  · have hrest : left s < 8 + designatorRest e := by
      unfold designatorRest
      split_ifs <;> omega
    rw [exec_segEci_of_stopped (eciSegment_of_cut he h8 hrest)]
    obtain ⟨mem, hfinish, hnul⟩ := finish_some_places_nul (s := s.advance 8) .dataUnderflow hcap hplen
    exact ⟨mem, congrArg _ hfinish, hnul⟩

/-! ### Count fields -/

theorem exec_modeInstr (m : DataMode) (s : State) : exec (modeInstr m) s = .next (dataTurn m s).settle := by
  cases m <;> rfl

theorem countWidth_eq (m : DataMode) (s : State) : m.countWidth s.version.toNat = countWidth m (tier s) := by
  unfold DataMode.countWidth tier
  cases m <;> dsimp only <;> split_ifs <;> rfl

theorem countWidth_pos (m : DataMode) (s : State) : 0 < countWidth m (tier s) := by
  unfold tier
  cases m <;> split_ifs <;> decide

theorem declared_eq (m : DataMode) (n : Nat) : m.declared n = declared m n := by
  cases m <;> rfl

theorem exec_mode_of_stopped {m : DataMode} {k : ErrKind} {t : State} (h : dataSegment m s = .stopped k t) :
    exec (modeInstr m) s = .next (t.finish (some k)) := by
  rw [exec_modeInstr, dataTurn, h]
  rfl

theorem exec_mode_of_decoded {m : DataMode} {t : State} (h : dataSegment m s = .decoded t) :
    exec (modeInstr m) s = .next (t.noteType m) := by
  rw [exec_modeInstr, dataTurn, h]
  rfl

section Counted

variable {m : DataMode} {w count : Nat} (hw : w = countWidth m (tier s))
include hw

theorem dataSegment_of_short (h : left s < w) : dataSegment m s = .stopped .dataUnderflow s := by
  rw [dataSegment, countWidth_eq, ← hw, State.field_none.2 h]

theorem dataSegment_of_overflow (h : w ≤ left s) (hcount : count = bits s s.bitptr.toNat w)
    (hfull : s.cfg.payloadCap < s.plen.toNat + declared m count) :
    dataSegment m s = .stopped .dataOverflow (s.advance w) := by
  rw [dataSegment, countWidth_eq, ← hw, field_of_le_left h, ← hcount]
  exact if_pos (declared_eq m count ▸ hfull)

theorem dataSegment_of_room (h : w ≤ left s) (hcount : count = bits s s.bitptr.toNat w)
    (hroom : s.plen.toNat + declared m count ≤ s.cfg.payloadCap) :
    dataSegment m s = decodeGroups m (m.groups count) (s.advance w) := by
  rw [dataSegment, countWidth_eq, ← hw, field_of_le_left h, ← hcount]
  exact if_neg (Nat.not_lt.2 (declared_eq m count ▸ hroom))

end Counted

/-- Settles O36: the count field is read first and its declared length tested before any group. -/
theorem countFieldErrorsComeBeforeData : Obligations.CountFieldErrorsComeBeforeData := by
  intro m s hcap hplen
  refine ⟨fun hshort => ?_, fun hleft hfull => ?_⟩
  · rw [exec_mode_of_stopped (dataSegment_of_short rfl hshort)]
    obtain ⟨mem, hfinish, hnul⟩ := finish_some_places_nul .dataUnderflow hcap hplen
    exact ⟨mem, congrArg _ hfinish, hnul⟩
  · rw [exec_mode_of_stopped (dataSegment_of_overflow rfl hleft rfl hfull)]
    obtain ⟨mem, hfinish, hnul⟩ :=
      finish_some_places_nul (s := s.advance (countWidth m (tier s))) .dataOverflow hcap hplen
    exact ⟨mem, congrArg _ hfinish, hnul⟩

end Sys2Proof.Machine
end

section
/-!
Data segments group by group (42_bitstream.md R128 to R131, 30_encoding.md R67): a count's whole groups are read one after
another from one bit position on, and every byte of the output is one of its group's.
-/

namespace Sys2Proof.Machine

open Sys2Proof.Stmt

/-! ### Emissions one after another -/

theorem writeList_append (mem : Memory) (a : Nat) (xs ys : List Byte) :
    (mem.writeList a xs).writeList (a + xs.length) ys = mem.writeList a (xs ++ ys) := by
  induction xs generalizing mem a with
  | nil => rfl
  | cons x xs ih =>
    have hend : a + (x :: xs).length = a + 1 + xs.length := by rw [List.length_cons]; omega
    rw [hend]
    exact ih (mem.write a x) (a + 1)

theorem emit_emit {s : State} {xs ys : List Byte} (h : s.plen.toNat + xs.length < 2 ^ 16) :
    (s.emit xs).emit ys = s.emit (xs ++ ys) := by
  have hmem : (s.emit xs).payload.writeList (s.emit xs).plen.toNat ys = s.payload.writeList s.plen.toNat (xs ++ ys) := by
    rw [emit_plen_toNat h, State.emit_payload, writeList_append]
  have hplen : (s.emit xs).plen + BitVec.ofNat 16 ys.length = s.plen + BitVec.ofNat 16 (xs ++ ys).length := by
    rw [State.emit_plen, List.length_append, BitVec.ofNat_add, BitVec.add_assoc]
  rw [State.emit, hmem, hplen]
  rfl

theorem emit_nil (s : State) : s.emit [] = s := by
  have hplen : s.plen + BitVec.ofNat 16 0 = s.plen := BitVec.add_zero s.plen
  simp only [State.emit, Memory.writeList, List.length_nil, hplen]

theorem advance_zero (s : State) : s.advance 0 = s := by
  have hptr : s.bitptr + BitVec.ofNat 32 0 = s.bitptr := BitVec.add_zero s.bitptr
  simp only [State.advance, hptr]

theorem advance_emit (s : State) (xs : List Byte) (n : Nat) : (s.emit xs).advance n = (s.advance n).emit xs := rfl

/-! ### Groups -/

/-- The width of a full group. -/
def DataMode.fullWidth (m : DataMode) : Nat := m.groupWidth m.groupSize

/-- The bytes a full group emits. -/
def DataMode.fullLength (m : DataMode) : Nat := m.declared m.groupSize

/-- The width of the last group, of the r characters the full ones leave. -/
def DataMode.tailWidth (m : DataMode) (r : Nat) : Nat := if r = 0 then 0 else m.groupWidth r

/-- The width of all the groups of a count. -/
def DataMode.groupsWidth (m : DataMode) (count : Nat) : Nat :=
  m.fullWidth * (count / m.groupSize) + m.tailWidth (count % m.groupSize)

variable (m : DataMode)

theorem fullWidth_pos : 0 < m.fullWidth := by cases m <;> decide

theorem declared_mul (n : Nat) : m.declared (m.groupSize * n) = m.fullLength * n := by
  cases m with
  | numeric | alphanumeric | byte => rfl
  | kanji => exact (Nat.mul_assoc 2 1 n).symm

variable {m}

theorem declared_lt {a b : Nat} (h : a < b) : m.declared a < m.declared b := by
  cases m <;> simp only [DataMode.declared] <;> omega

theorem length_groupBytes {k : Nat} (hk : 0 < k) (hle : k ≤ m.groupSize) (g : Nat) :
    (m.groupBytes k g).length = m.declared k := by
  cases m with
  | numeric | alphanumeric => simp only [DataMode.groupBytes, List.length_map, List.length_range, DataMode.declared]
  | byte | kanji =>
    obtain rfl : k = 1 := Nat.le_antisymm hle hk
    rfl

theorem groups_zero : m.groups 0 = [] := by
  cases m <;> rfl

/-- The first group is a full one, or all there is. -/
theorem groups_of_pos {c : Nat} (hc : 0 < c) : m.groups c = min m.groupSize c :: m.groups (c - m.groupSize) := by
  have hpos := groupSize_pos m
  rcases Nat.lt_or_ge c m.groupSize with hlt | hge
  · rw [Nat.min_eq_right hlt.le, Nat.sub_eq_zero_of_le hlt.le, groups_zero, DataMode.groups, Nat.div_eq_of_lt hlt,
      Nat.mod_eq_of_lt hlt, if_neg hc.ne']
    rfl
  · have hdiv : c / m.groupSize = (c - m.groupSize) / m.groupSize + 1 := Nat.div_eq_sub_div hpos hge
    rw [Nat.min_eq_left hge, DataMode.groups, hdiv, List.replicate_succ, Nat.mod_eq_sub_mod hge]
    rfl

/-- Byte j of group i of k characters, the groups beginning at bit p. -/
def groupByte (m : DataMode) (s : State) (p i k j : Nat) : Byte :=
  (m.groupBytes k (bits s (p + m.fullWidth * i) (m.groupWidth k))).getD j 0

/-- The bytes of the first n groups, all full, the first at bit p. -/
def wholeGroups (m : DataMode) (s : State) (p n : Nat) : List Byte :=
  (List.range n).flatMap fun i => m.groupBytes m.groupSize (bits s (p + m.fullWidth * i) m.fullWidth)

theorem wholeGroups_succ (s : State) (p n : Nat) : wholeGroups m s p (n + 1) =
    wholeGroups m s p n ++ m.groupBytes m.groupSize (bits s (p + m.fullWidth * n) m.fullWidth) := by
  simp only [wholeGroups, List.range_succ, List.flatMap_append, List.flatMap_cons, List.flatMap_nil, List.append_nil]

theorem length_wholeGroups (s : State) (p n : Nat) : (wholeGroups m s p n).length = m.fullLength * n := by
  induction n with
  | zero => rfl
  | succ n ih =>
    rw [wholeGroups_succ, List.length_append, ih, length_groupBytes (groupSize_pos m) le_rfl, Nat.mul_succ]
    rfl

theorem getD_wholeGroups (s : State) (p : Nat) {n q : Nat} (hq : q < m.fullLength * n) :
    (wholeGroups m s p n).getD q 0 = groupByte m s p (q / m.fullLength) m.groupSize (q % m.fullLength) := by
  induction n with
  | zero => exact absurd hq (Nat.not_lt_zero q)
  | succ n ih =>
    have hlen := length_wholeGroups (m := m) s p n
    rw [wholeGroups_succ]
    rcases Nat.lt_or_ge q (m.fullLength * n) with hlt | hge
    · rw [List.getD_append _ _ _ _ (hlen ▸ hlt), ih hlt]
    · have hdiv : q / m.fullLength = n := Nat.div_eq_of_lt_le (by rwa [Nat.mul_comm]) (by rwa [Nat.mul_comm])
      have hmod : q - m.fullLength * n = q % m.fullLength := by rw [← hdiv, Nat.mod_def]
      rw [List.getD_append_right _ _ _ _ (hlen ▸ hge), hlen, hdiv, hmod]
      rfl

/-- The state after n full groups. -/
def State.afterGroups (s : State) (m : DataMode) (n : Nat) : State :=
  (s.advance (m.fullWidth * n)).emit (wholeGroups m s s.bitptr.toNat n)

theorem afterGroups_zero (s : State) : s.afterGroups m 0 = s := by
  rw [State.afterGroups, Nat.mul_zero, advance_zero]
  exact emit_nil s

variable {s : State} {count n : Nat}

theorem emit_afterGroups (hroom : s.plen.toNat + m.fullLength * n < 2 ^ 16) (w : Nat) (bs : List Byte) :
    ((s.afterGroups m n).advance w).emit bs =
      (s.advance (m.fullWidth * n + w)).emit (wholeGroups m s s.bitptr.toNat n ++ bs) := by
  rw [State.afterGroups, advance_emit, advance_advance]
  exact emit_emit (s := s.advance _) (by rwa [length_wholeGroups])

theorem afterGroups_succ (hroom : s.plen.toNat + m.fullLength * n < 2 ^ 16) :
    ((s.afterGroups m n).advance m.fullWidth).emit
      (m.groupBytes m.groupSize (bits s (s.bitptr.toNat + m.fullWidth * n) m.fullWidth)) = s.afterGroups m (n + 1) := by
  rw [emit_afterGroups hroom, State.afterGroups, wholeGroups_succ, Nat.mul_succ]

section Run

variable (hptr : s.bitptr.toNat ≤ s.databits.toNat)
include hptr

theorem afterGroups_bitptr (hbits : m.fullWidth * n ≤ left s) :
    (s.afterGroups m n).bitptr.toNat = s.bitptr.toNat + m.fullWidth * n :=
  State.advance_bitptr_toNat hbits hptr

theorem left_afterGroups (hbits : m.fullWidth * n ≤ left s) : left (s.afterGroups m n) = left s - m.fullWidth * n :=
  State.advance_remaining hbits hptr

/-- One more group, full or the last, after n full ones. -/
theorem decodeGroups_afterGroups {k : Nat} (ks : List Nat) (hbits : m.fullWidth * n + m.groupWidth k ≤ left s) :
    decodeGroups m (k :: ks) (s.afterGroups m n) = decodeGroups m ks
      (((s.afterGroups m n).advance (m.groupWidth k)).emit
        (m.groupBytes k (bits s (s.bitptr.toNat + m.fullWidth * n) (m.groupWidth k)))) := by
  have hwhole : m.fullWidth * n ≤ left s := by omega
  have hk : m.groupWidth k ≤ left (s.afterGroups m n) := by rw [left_afterGroups hptr hwhole]; omega
  rw [decodeGroups, field_of_le_left hk, afterGroups_bitptr hptr hwhole]
  rfl

theorem decodeGroups_afterGroups_short {k : Nat} (ks : List Nat) (hbits : m.fullWidth * n ≤ left s)
    (hshort : left s < m.fullWidth * n + m.groupWidth k) :
    decodeGroups m (k :: ks) (s.afterGroups m n) = .stopped .dataUnderflow (s.afterGroups m n) := by
  have hk : left (s.afterGroups m n) < m.groupWidth k := by rw [left_afterGroups hptr hbits]; omega
  rw [decodeGroups, State.field_none.2 hk]

/-- The full groups that are in the stream are read one after another. -/
theorem decodeGroups_whole (hn : m.groupSize * n ≤ count) (hbits : m.fullWidth * n ≤ left s)
    (hroom : s.plen.toNat + m.fullLength * n < 2 ^ 16) :
    decodeGroups m (m.groups count) s = decodeGroups m (m.groups (count - m.groupSize * n)) (s.afterGroups m n) := by
  induction n with
  | zero => rw [afterGroups_zero, Nat.mul_zero, Nat.sub_zero]
  | succ n ih =>
    rw [Nat.mul_succ] at hn hbits hroom
    have hpos := groupSize_pos m
    have hmin : min m.groupSize (count - m.groupSize * n) = m.groupSize := Nat.min_eq_left (by omega)
    have hrest : count - m.groupSize * n - m.groupSize = count - m.groupSize * (n + 1) := by rw [Nat.mul_succ]; omega
    rw [ih (by omega) (by omega) (by omega), groups_of_pos (by omega), hmin, hrest, decodeGroups_afterGroups hptr _ hbits]
    exact congrArg _ (afterGroups_succ (by omega))

end Run

/-! ### A segment that fits -/

/-- The bytes of the group of the characters that the full groups leave, if any. -/
def tailGroup (m : DataMode) (s : State) (p r : Nat) : List Byte :=
  if r = 0 then [] else m.groupBytes r (bits s p (m.groupWidth r))

/-- The bytes of all the groups of a count, the first at bit p. -/
def segmentBytes (m : DataMode) (s : State) (p count : Nat) : List Byte :=
  wholeGroups m s p (count / m.groupSize) ++
    tailGroup m s (p + m.fullWidth * (count / m.groupSize)) (count % m.groupSize)

theorem length_tailGroup (s : State) (p : Nat) {r : Nat} (hr : r < m.groupSize) :
    (tailGroup m s p r).length = m.declared r := by
  unfold tailGroup
  split
  next h => subst h; cases m <;> rfl
  next h => exact length_groupBytes (Nat.pos_of_ne_zero h) hr.le _

theorem declared_eq_add (m : DataMode) (count : Nat) :
    m.declared count = m.fullLength * (count / m.groupSize) + m.declared (count % m.groupSize) := by
  rw [← declared_mul, ← declared_add, Nat.div_add_mod]

theorem length_segmentBytes (s : State) (p count : Nat) : (segmentBytes m s p count).length = m.declared count := by
  rw [segmentBytes, List.length_append, length_wholeGroups, length_tailGroup _ _ (Nat.mod_lt _ (groupSize_pos m)),
    ← declared_eq_add]

/-- Every byte of a segment is one of its group's. -/
theorem getD_segmentBytes (s : State) (p : Nat) {q : Nat} (hq : q < m.declared count) :
    (segmentBytes m s p count).getD q 0 =
      groupByte m s p (q / m.fullLength) (min m.groupSize (count - m.groupSize * (q / m.fullLength)))
        (q % m.fullLength) := by
  have hlen := length_wholeGroups (m := m) s p (count / m.groupSize)
  have hmod : count % m.groupSize < m.groupSize := Nat.mod_lt _ (groupSize_pos m)
  have hcount := Nat.div_add_mod count m.groupSize
  rw [segmentBytes]
  rcases Nat.lt_or_ge q (m.fullLength * (count / m.groupSize)) with hlt | hge
  · have hgroup : q / m.fullLength < count / m.groupSize := Nat.div_lt_of_lt_mul hlt
    have hle : m.groupSize * (q / m.fullLength + 1) ≤ m.groupSize * (count / m.groupSize) := Nat.mul_le_mul_left _ hgroup
    rw [Nat.mul_succ] at hle
    rw [List.getD_append _ _ _ _ (hlen ▸ hlt), getD_wholeGroups s p hlt, Nat.min_eq_left (by omega)]
  · rw [declared_eq_add] at hq
    have htail : m.declared (count % m.groupSize) < m.fullLength := declared_lt hmod
    have hdiv : q / m.fullLength = count / m.groupSize :=
      Nat.div_eq_of_lt_le (by rwa [Nat.mul_comm]) (by rw [Nat.mul_comm, Nat.mul_succ]; omega)
    have hsub : q - m.fullLength * (count / m.groupSize) = q % m.fullLength := by rw [← hdiv, Nat.mod_def]
    have hrest : min m.groupSize (count - m.groupSize * (count / m.groupSize)) = count % m.groupSize := by omega
    have hne : count % m.groupSize ≠ 0 := fun h0 => by
      rw [h0] at hq
      have : m.declared 0 = 0 := by cases m <;> rfl
      omega
    rw [List.getD_append_right _ _ _ _ (hlen ▸ hge), hlen, hsub, hdiv, hrest, tailGroup, if_neg hne]
    rfl

theorem decodeGroups_fits (hptr : s.bitptr.toNat ≤ s.databits.toNat) (hbits : m.groupsWidth count ≤ left s)
    (hroom : s.plen.toNat + m.declared count < 2 ^ 16) :
    decodeGroups m (m.groups count) s =
      .decoded ((s.advance (m.groupsWidth count)).emit (segmentBytes m s s.bitptr.toNat count)) := by
  have hmod : count % m.groupSize < m.groupSize := Nat.mod_lt _ (groupSize_pos m)
  have hcount := Nat.div_add_mod count m.groupSize
  have hrest : count - m.groupSize * (count / m.groupSize) = count % m.groupSize := by omega
  have hdecl := declared_eq_add m count
  have hwidth : m.groupsWidth count = m.fullWidth * (count / m.groupSize) + m.tailWidth (count % m.groupSize) := rfl
  rw [decodeGroups_whole hptr (Nat.mul_div_le count _) (by omega) (by omega), hrest, hwidth, segmentBytes]
  unfold DataMode.tailWidth at hwidth ⊢
  unfold tailGroup
  split at hwidth
  next h0 =>
    rw [h0, if_pos rfl, if_pos rfl, groups_zero, List.append_nil]
    rfl
  next hne =>
    have hpos : 0 < count % m.groupSize := Nat.pos_of_ne_zero hne
    rw [if_neg hne, if_neg hne, groups_of_pos hpos, Nat.min_eq_right hmod.le, Nat.sub_eq_zero_of_le hmod.le, groups_zero,
      decodeGroups_afterGroups hptr _ (by omega), emit_afterGroups (by omega)]
    rfl

/-! ### A segment cut short -/

/-- The group after the n that are in the stream: it has characters, and its field does not fit. -/
theorem group_cut (hn : n = min (count / m.groupSize) (left s / m.fullWidth)) (hcut : left s < m.groupsWidth count) :
    m.groupSize * n < count ∧ m.fullWidth * n ≤ left s ∧
      left s < m.fullWidth * n + m.groupWidth (min m.groupSize (count - m.groupSize * n)) := by
  have hcount := Nat.div_add_mod count m.groupSize
  have hmod : count % m.groupSize < m.groupSize := Nat.mod_lt _ (groupSize_pos m)
  have hbits : m.fullWidth * n ≤ left s :=
    (Nat.mul_le_mul_left _ (by omega)).trans (Nat.mul_div_le (left s) m.fullWidth)
  rcases Nat.lt_or_ge n (count / m.groupSize) with hlt | hge
  · have hfull : m.groupSize * (n + 1) ≤ m.groupSize * (count / m.groupSize) := Nat.mul_le_mul_left _ hlt
    have hquot : n = left s / m.fullWidth := by omega
    have hshort : left s < m.fullWidth * (n + 1) := hquot ▸ Nat.lt_mul_div_succ _ (fullWidth_pos m)
    have hpos := groupSize_pos m
    rw [Nat.mul_succ] at hfull hshort
    rw [Nat.min_eq_left (by omega)]
    exact ⟨by omega, hbits, hshort⟩
  · obtain rfl : n = count / m.groupSize := by omega
    have hrest : min m.groupSize (count - m.groupSize * (count / m.groupSize)) = count % m.groupSize := by omega
    unfold DataMode.groupsWidth DataMode.tailWidth at hcut
    rw [hrest]
    split at hcut
    · omega
    · exact ⟨by omega, hbits, hcut⟩

theorem decodeGroups_cut (hptr : s.bitptr.toNat ≤ s.databits.toNat)
    (hn : n = min (count / m.groupSize) (left s / m.fullWidth)) (hcut : left s < m.groupsWidth count)
    (hroom : s.plen.toNat + m.fullLength * n < 2 ^ 16) :
    decodeGroups m (m.groups count) s = .stopped .dataUnderflow (s.afterGroups m n) := by
  obtain ⟨hlt, hbits, hshort⟩ := group_cut hn hcut
  rw [decodeGroups_whole hptr hlt.le hbits hroom, groups_of_pos (by omega),
    decodeGroups_afterGroups_short hptr _ hbits hshort]

/-- The state after a count field of w bits and n full groups. -/
def State.keepGroups (s : State) (m : DataMode) (w n : Nat) : State :=
  (s.advance (w + m.fullWidth * n)).emit (wholeGroups m s (s.bitptr.toNat + w) n)

/-! ### The bytes of an emission -/

theorem emitted_congr {mem : Memory} {g g' : Nat → Byte} (h : Emitted s mem n g) (heq : ∀ q < n, g q = g' q) :
    Emitted s mem n g' := by
  obtain ⟨hin, hout⟩ := h
  exact ⟨fun q hq => (hin q hq).trans (heq q hq), hout⟩

theorem emitted_emit {bs : List Byte} {g : Nat → Byte} (hlen : bs.length = n) (hbytes : ∀ q < n, bs.getD q 0 = g q) :
    Emitted s (s.emit bs).payload n g := by
  refine ⟨fun q hq => ?_, fun a ha => ?_⟩
  · rw [State.emit_read, if_pos (by omega), Nat.add_sub_cancel_left]
    exact hbytes q hq
  · rw [State.emit_read, if_neg (by omega)]

/-- An emission, and the nul the ending puts after it. -/
theorem emitted_closeRecord {g : Nat → Byte} {t : State} (h : Emitted s t.payload n g)
    (hplen : t.closeRecord.plen.toNat = s.plen.toNat + n) :
    Emitted s t.closeRecord.payload (n + 1) (fun q => if q < n then g q else 0) := by
  obtain ⟨hin, hout⟩ := h
  refine ⟨fun q hq => ?_, fun a ha => ?_⟩
  · dsimp only
    rw [State.closeRecord_read, hplen]
    split_ifs
    · omega
    · rfl
    · exact hin q ‹_›
    · omega
  · rw [State.closeRecord_read, hplen, if_neg (by omega)]
    exact hout a (by omega)

/-! ### The segments -/

section Segments

variable {w : Nat} (hw : w = countWidth m (tier s)) (hleft : w ≤ left s) (hcount : count = bits s s.bitptr.toNat w)
  (hroom : s.plen.toNat + declared m count ≤ s.cfg.payloadCap) (hcap : s.cfg.payloadCap ≤ 32768)
include hw hleft hcount hroom hcap

/-- A data segment whose fields are all in the stream (R127 to R131). -/
theorem exec_mode_fits (hbits : w + m.groupsWidth count ≤ left s) :
    ∃ mem : Memory,
      exec (modeInstr m) s = .next { s with
        bitptr := s.bitptr + BitVec.ofNat 32 (w + m.groupsWidth count)
        plen := s.plen + BitVec.ofNat 16 (declared m count)
        dtype := typeMax s m.code
        payload := mem } ∧
      Emitted s mem (declared m count) (fun q => groupByte m s (s.bitptr.toNat + w) (q / m.fullLength)
        (min m.groupSize (count - m.groupSize * (q / m.fullLength))) (q % m.fullLength)) := by
  have hpos : 0 < w := hw ▸ countWidth_pos m s
  have hptr := advance_bitptr_of_le_left hpos hleft
  have hrest := left_advance hpos hleft
  have hdecl := declared_eq m count
  have hlen : (segmentBytes m s (s.bitptr.toNat + w) count).length = declared m count :=
    (length_segmentBytes _ _ _).trans hdecl
  have hseg : dataSegment m s = .decoded
      ((s.advance (w + m.groupsWidth count)).emit (segmentBytes m s (s.bitptr.toNat + w) count)) := by
    rw [dataSegment_of_room hw hleft hcount hroom, decodeGroups_fits (advance_bitptr_le hpos hleft) (by omega)
      (by rw [State.advance_plen]; omega), advance_advance, hptr]
    rfl
  refine ⟨(s.emit (segmentBytes m s (s.bitptr.toNat + w) count)).payload, ?_, ?_⟩
  · rw [exec_mode_of_decoded hseg, ← hlen]
    rfl
  · exact emitted_emit hlen fun q hq => getD_segmentBytes s _ (hdecl ▸ hq)

/-- A data segment cut short: its n whole groups are kept and counted, the nul follows them (R135, R156). -/
theorem exec_mode_cut (hcut : left s < w + m.groupsWidth count)
    (hn : n = min (count / m.groupSize) ((left s - w) / m.fullWidth)) :
    ∃ mem : Memory,
      exec (modeInstr m) s = .next { s with
        bitptr := s.bitptr + BitVec.ofNat 32 (w + m.fullWidth * n)
        plen := s.plen + BitVec.ofNat 16 (m.fullLength * n)
        payload := mem, err := 6, statusErrs := true, statusIll := false } ∧
      Emitted s mem (m.fullLength * n + 1) (fun q => if q < m.fullLength * n then
        groupByte m s (s.bitptr.toNat + w) (q / m.fullLength) m.groupSize (q % m.fullLength) else 0) := by
  have hpos : 0 < w := hw ▸ countWidth_pos m s
  have hptr := advance_bitptr_of_le_left hpos hleft
  rw [← left_advance hpos hleft] at hn
  have hrest : left (s.advance w) < m.groupsWidth count := by rw [left_advance hpos hleft]; omega
  obtain ⟨hlt, -, -⟩ := group_cut hn hrest
  have hbytes : m.fullLength * n < declared m count := by
    rw [← declared_mul, ← declared_eq]
    exact declared_lt hlt
  have hlen := length_wholeGroups (m := m) s (s.bitptr.toNat + w) n
  have hseg : dataSegment m s = .stopped .dataUnderflow (s.keepGroups m w n) := by
    rw [dataSegment_of_room hw hleft hcount hroom, decodeGroups_cut (advance_bitptr_le hpos hleft) hn hrest
      (by rw [State.advance_plen]; omega), State.afterGroups, advance_advance, hptr]
    rfl
  have hplen : (s.keepGroups m w n).plen.toNat = s.plen.toNat + m.fullLength * n :=
    hlen ▸ emit_plen_toNat (s := s) (bs := wholeGroups m s (s.bitptr.toNat + w) n) (by omega)
  have hclose : (s.keepGroups m w n).closeRecord.plen = (s.keepGroups m w n).plen :=
    if_neg (Nat.not_le.2 (show (s.keepGroups m w n).plen.toNat < s.cfg.payloadCap by omega))
  have hkept : Emitted s (s.keepGroups m w n).payload (m.fullLength * n) _ :=
    emitted_emit hlen fun _ hq => getD_wholeGroups s _ hq
  refine ⟨(s.keepGroups m w n).closeRecord.payload, ?_, emitted_closeRecord hkept (by rw [hclose, hplen])⟩
  rw [exec_mode_of_stopped hseg, State.finish_some_eq, State.raise, hclose, ← hlen]
  rfl

end Segments

end Sys2Proof.Machine
end

section
/-!
The four data modes (42_bitstream.md R128 to R131): what the bytes of a group are in each, and with it what a segment of the
mode emits, whole or cut short.
-/

namespace Sys2Proof.Machine

open Sys2Proof.Stmt

/-! ### The bytes of a group -/

theorem groupWidth_numeric {k : Nat} (hpos : 0 < k) (hle : k ≤ 3) :
    DataMode.numeric.groupWidth k = if k = 3 then 10 else if k = 2 then 7 else 4 := by
  interval_cases k <;> rfl

theorem groupWidth_alphanumeric {k : Nat} (hpos : 0 < k) (hle : k ≤ 2) :
    DataMode.alphanumeric.groupWidth k = if k = 2 then 11 else 6 := by
  interval_cases k <;> rfl

theorem groupByte_numeric (s : State) (p i : Nat) {j k : Nat} (hj : j < k) (hk : k ≤ 3) : groupByte .numeric s p i k j =
    BitVec.ofNat 8
      (0x30 + bits s (p + 10 * i) (if k = 3 then 10 else if k = 2 then 7 else 4) / 10 ^ (k - 1 - j) % 10) := by
  rw [← groupWidth_numeric (by omega) hk]
  exact (coeff_map_range k _ j).trans (if_pos hj)

theorem groupByte_alphanumeric (s : State) (p i : Nat) {j k : Nat} (hj : j < k) (hk : k ≤ 2) :
    groupByte .alphanumeric s p i k j =
      alphabet.getD (bits s (p + 11 * i) (if k = 2 then 11 else 6) / 45 ^ (k - 1 - j) % 45) 0 := by
  rw [← groupWidth_alphanumeric (by omega) hk]
  exact (coeff_map_range k _ j).trans (if_pos hj)

theorem groupByte_byte (s : State) (p i k : Nat) :
    groupByte .byte s p i k 0 = BitVec.ofNat 8 (bits s (p + 8 * i) 8) := rfl

theorem kanjiCode_eq_shiftJis (d : Nat) : kanjiCode d = shiftJis d := by
  rw [kanjiCode, shiftJis, Nat.mul_comm 256]

/-- A code's two bytes, high byte first (R131). -/
theorem groupBytes_kanji_getD (k d : Nat) {j : Nat} (hj : j < 2) : (DataMode.kanji.groupBytes k d).getD j 0 =
    BitVec.ofNat 8 (if j = 0 then shiftJis d / 256 else shiftJis d % 256) := by
  rw [DataMode.groupBytes, kanjiCode_eq_shiftJis]
  generalize shiftJis d = c
  obtain rfl | rfl : j = 0 ∨ j = 1 := by omega
  · rw [if_pos rfl, List.getD_cons_zero]
  · rw [if_neg Nat.one_ne_zero, List.getD_cons_succ, List.getD_cons_zero]
    exact BitVec.eq_of_toNat_eq (by simp only [BitVec.toNat_ofNat, Nat.reducePow, Nat.mod_mod])

theorem groupByte_kanji (s : State) (p i k : Nat) {j : Nat} (hj : j < 2) : groupByte .kanji s p i k j =
    BitVec.ofNat 8 (if j = 0 then shiftJis (bits s (p + 13 * i) 13) / 256 else shiftJis (bits s (p + 13 * i) 13) % 256) := by
  rw [← groupBytes_kanji_getD k _ hj]
  rfl

/-! ### The width of a count's groups -/

theorem groupsWidth_numeric (count : Nat) : DataMode.numeric.groupsWidth count =
    10 * (count / 3) + if count % 3 = 2 then 7 else if count % 3 = 1 then 4 else 0 := by
  have hmod : count % 3 < 3 := Nat.mod_lt _ (by decide)
  have htail : DataMode.numeric.tailWidth (count % 3) = if count % 3 = 2 then 7 else if count % 3 = 1 then 4 else 0 := by
    interval_cases count % 3 <;> rfl
  exact congrArg _ htail

theorem groupsWidth_alphanumeric (count : Nat) :
    DataMode.alphanumeric.groupsWidth count = 11 * (count / 2) + 6 * (count % 2) := by
  have hmod : count % 2 < 2 := Nat.mod_lt _ (by decide)
  have htail : DataMode.alphanumeric.tailWidth (count % 2) = 6 * (count % 2) := by
    interval_cases count % 2 <;> rfl
  exact congrArg _ htail

theorem groupsWidth_byte (count : Nat) : DataMode.byte.groupsWidth count = 8 * count := by
  have hgroups : DataMode.byte.groupsWidth count = 8 * (count / 1) + DataMode.byte.tailWidth (count % 1) := rfl
  rw [hgroups, Nat.div_one, Nat.mod_one]
  rfl

theorem groupsWidth_kanji (count : Nat) : DataMode.kanji.groupsWidth count = 13 * count := by
  have hgroups : DataMode.kanji.groupsWidth count = 13 * (count / 1) + DataMode.kanji.tailWidth (count % 1) := rfl
  rw [hgroups, Nat.div_one, Nat.mod_one]
  rfl

/-! ### Segments that fit -/

/-- Settles O30. -/
theorem segNumEmitsDigits : Obligations.SegNumEmitsDigits := by
  intro s w count tail hw hleft hcount htail hroom hcap hbits
  have hwidth : w + DataMode.numeric.groupsWidth count = w + 10 * (count / 3) + tail := by
    rw [groupsWidth_numeric, htail, Nat.add_assoc]
  obtain ⟨mem, hexec, hmem⟩ := exec_mode_fits (m := .numeric) hw hleft hcount hroom hcap (hwidth ▸ hbits)
  rw [hwidth] at hexec
  refine ⟨mem, hexec, emitted_congr hmem fun q (hq : q < count) => ?_⟩
  have hin : q % 3 < min 3 (count - 3 * (q / 3)) := by omega
  exact groupByte_numeric s _ _ hin (Nat.min_le_left _ _)

/-- Settles O31. -/
theorem segAlnumEmitsCharacters : Obligations.SegAlnumEmitsCharacters := by
  intro s w count hw hleft hcount hroom hcap hbits
  have hwidth : w + DataMode.alphanumeric.groupsWidth count = w + 11 * (count / 2) + 6 * (count % 2) := by
    rw [groupsWidth_alphanumeric, Nat.add_assoc]
  obtain ⟨mem, hexec, hmem⟩ := exec_mode_fits (m := .alphanumeric) hw hleft hcount hroom hcap (hwidth ▸ hbits)
  rw [hwidth] at hexec
  refine ⟨mem, hexec, emitted_congr hmem fun q (hq : q < count) => ?_⟩
  have hin : q % 2 < min 2 (count - 2 * (q / 2)) := by omega
  exact groupByte_alphanumeric s _ _ hin (Nat.min_le_left _ _)

/-- Settles O32. -/
theorem segByteCopiesBytes : Obligations.SegByteCopiesBytes := by
  intro s w count hw hleft hcount hroom hcap hbits
  have hwidth := groupsWidth_byte count
  obtain ⟨mem, hexec, hmem⟩ := exec_mode_fits (m := .byte) hw hleft hcount hroom hcap (hwidth ▸ hbits)
  rw [hwidth] at hexec
  refine ⟨mem, hexec, emitted_congr hmem fun q _ => ?_⟩
  have hgroup : q / DataMode.byte.fullLength = q := Nat.div_one q
  have hbyte : q % DataMode.byte.fullLength = 0 := Nat.mod_one q
  rw [hgroup, hbyte, groupByte_byte]

/-- Settles O33. -/
theorem segKanjiEmitsShiftJis : Obligations.SegKanjiEmitsShiftJis := by
  intro s w count hw hleft hcount hroom hcap hbits
  have hwidth := groupsWidth_kanji count
  obtain ⟨mem, hexec, hmem⟩ := exec_mode_fits (m := .kanji) hw hleft hcount hroom hcap (hwidth ▸ hbits)
  rw [hwidth] at hexec
  exact ⟨mem, hexec, emitted_congr hmem fun q _ => groupByte_kanji s _ _ _ (Nat.mod_lt q (by decide))⟩

/-! ### Segments cut short -/

/-- Settles O37. -/
theorem segNumUnderflowKeepsWholeGroups : Obligations.SegNumUnderflowKeepsWholeGroups := by
  intro s w count tail n hw hleft hcount htail hroom hcap hcut hn
  have hwidth : w + DataMode.numeric.groupsWidth count = w + 10 * (count / 3) + tail := by
    rw [groupsWidth_numeric, htail, Nat.add_assoc]
  obtain ⟨mem, hexec, hmem⟩ := exec_mode_cut (m := .numeric) hw hleft hcount hroom hcap (hwidth ▸ hcut) hn
  refine ⟨mem, hexec, emitted_congr hmem fun q _ => ?_⟩
  exact ite_congr rfl (fun _ => groupByte_numeric s _ _ (Nat.mod_lt q (by decide)) le_rfl) fun _ => rfl

/-- Settles O38. -/
theorem segAlnumUnderflowKeepsWholePairs : Obligations.SegAlnumUnderflowKeepsWholePairs := by
  intro s w count n hw hleft hcount hroom hcap hcut hn
  have hwidth : w + DataMode.alphanumeric.groupsWidth count = w + 11 * (count / 2) + 6 * (count % 2) := by
    rw [groupsWidth_alphanumeric, Nat.add_assoc]
  obtain ⟨mem, hexec, hmem⟩ := exec_mode_cut (m := .alphanumeric) hw hleft hcount hroom hcap (hwidth ▸ hcut) hn
  refine ⟨mem, hexec, emitted_congr hmem fun q _ => ?_⟩
  exact ite_congr rfl (fun _ => groupByte_alphanumeric s _ _ (Nat.mod_lt q (by decide)) le_rfl) fun _ => rfl

/-- Settles O39. -/
theorem segKanjiUnderflowKeepsWholeCodes : Obligations.SegKanjiUnderflowKeepsWholeCodes := by
  intro s w count n hw hleft hcount hroom hcap hcut hn
  have hwhole : n = min (count / 1) ((left s - w) / 13) := by rw [Nat.div_one]; omega
  obtain ⟨mem, hexec, hmem⟩ :=
    exec_mode_cut (m := .kanji) hw hleft hcount hroom hcap (groupsWidth_kanji count ▸ hcut) hwhole
  refine ⟨mem, hexec, emitted_congr hmem fun q _ => ?_⟩
  exact ite_congr rfl (fun _ => groupByte_kanji s _ _ _ (Nat.mod_lt q (by decide))) fun _ => rfl

/-- Settles O40. -/
theorem segByteUnderflowKeepsWholeBytes : Obligations.SegByteUnderflowKeepsWholeBytes := by
  intro s w count n hw hleft hcount hroom hcap hcut hn
  have hwhole : n = min (count / 1) ((left s - w) / 8) := by rw [Nat.div_one]; omega
  have hone : DataMode.byte.fullLength * n = n := Nat.one_mul n
  obtain ⟨mem, hexec, hmem⟩ :=
    exec_mode_cut (m := .byte) hw hleft hcount hroom hcap (groupsWidth_byte count ▸ hcut) hwhole
  rw [hone] at hexec hmem
  refine ⟨mem, hexec, emitted_congr hmem fun q _ => ?_⟩
  have hgroup : q / DataMode.byte.fullLength = q := Nat.div_one q
  have hbyte : q % DataMode.byte.fullLength = 0 := Nat.mod_one q
  rw [hgroup, hbyte, groupByte_byte]

end Sys2Proof.Machine
end

section
/-!
Errors and illegal commands on the engine's state (60_exceptions.md R150, R158, R160), and that nothing stops it
(70_reset_and_hazards.md R172, R183): the ways a command ends, and how an access comes to its end.
-/

namespace Sys2Proof.Machine

open Sys2Proof.Stmt

/-! ### Raising an error -/

/-- Settles O48: the listed codes are those of `ErrKind.code`, and `raise` writes that code. -/
theorem raiseWritesCodeAndFlags : Obligations.RaiseWritesCodeAndFlags := by
  intro s k code hmem
  have hcode : code = k.code := by cases k <;> simpa [ErrKind.code] using hmem
  rw [State.raise, hcode]

/-! ### Illegal commands -/

/-- The table of R158 has rows for the commands of the bus only. -/
theorem isCommand_of_illegalOperands {i : Instr} {s : State} (h : illegalOperands s i) : isCommand i = true := by
  cases i with
  | segNum | segAlnum | segByte | segKanji | segEci | segEnd mode => exact h.elim
  | _ => rfl

/-- A word that decodes to no instruction is an illegal command (R61, R158). -/
theorem runWord_of_undecodable {w : Word} (hw : ∀ i, decode (.cmd32 w) ≠ .ok i) (s : State) :
    runWord w s = .next s.illegal := by
  unfold runWord
  cases hd : decode (.cmd32 w) with
  | ok i => exact absurd hd (hw i)
  | error e => rfl

/-- A legal command ends, with success or a raised error, and either end clears ILL (R12, R160). -/
theorem exec_clears_statusIll {i : Instr} {s : State} (hi : isCommand i = true) (hl : ¬ illegalOperands s i) :
    ∃ t, exec i s = .next t ∧ t.statusIll = false := by
  have hend := exec_end hi s
  generalize exec i s = o at hend ⊢
  cases hend with
  | illegal hill => exact absurd hill hl
  | @succeeded u => exact ⟨u.succeed, rfl, u.succeed_statusIll⟩
  | @raised u k => exact ⟨u.raise k, rfl, u.raise_statusIll k⟩

/-- Settles O47. -/
theorem illegalCommandsOnlySetFlags : Obligations.IllegalCommandsOnlySetFlags :=
  ⟨fun _ s hw => runWord_of_undecodable hw s,
    fun _ _ hill => exec_of_illegalOperands (isCommand_of_illegalOperands hill) hill,
    fun _ _ hi hl => exec_clears_statusIll hi hl⟩

/-! ### The engine never stops -/

/-- With no access left the engine is idle (R172). -/
theorem step_of_inbox_nil {s : State} (hin : s.inbox = []) : step s = .next s := by rw [step, hin]

theorem runEffect_next (e : WriteEffect) : ∃ t, runEffect e = .next t := by
  cases e with
  | finished s => exact ⟨s, rfl⟩
  | command w s =>
    obtain ⟨t, ht, -⟩ := runWord_next w s
    exact ⟨t, ht⟩

/-- Settles O58: idle, or an access whose effect answers, a command word it issued included. -/
theorem everyStepAnswersANextState : Obligations.EveryStepAnswersANextState := by
  refine ⟨fun s => ?_, fun s => step_of_inbox_nil⟩
  cases hin : s.inbox with
  | nil => exact ⟨s, step_of_inbox_nil hin⟩
  | cons a rest =>
    rw [step_of_inbox hin]
    exact runEffect_next _

end Sys2Proof.Machine
end

section
/-!
Reset (70_reset_and_hazards.md R170, R172, log entry 4): every byte space is empty and every register 0, whatever the
parameters.
-/

namespace Sys2Proof.Machine

open Sys2Proof.Stmt

theorem regValue_resetWith (c : Config) (r : RegName) : (State.resetWith c).regValue r = 0 := by cases r <;> rfl

theorem statusWord_resetWith (c : Config) : (State.resetWith c).statusWord = 0 := by
  rw [statusWord_eq, regValue_resetWith]
  rfl

/-- Whatever a host access reaches reads 0 after reset. -/
theorem readTarget_resetWith (c : Config) (t : Target) : (State.resetWith c).readTarget t = 0 := by
  cases t with
  | reg r =>
    rw [State.readTarget, readReg_eq, regValue_resetWith]
    rfl
  | poly i | cw i | data i | payload i => rfl

theorem hostRead_resetWith {c : Config} {off : BitVec 16} {w : AccessWidth} (h : LegalRead c off w) :
    ((State.resetWith c).hostRead off w).response = some (.value 0) := by
  obtain ⟨t, ht⟩ := exists_target_of_legalRead h
  rw [hostRead_of_target (s := State.resetWith c) ht, State.respond_response, readTarget_resetWith]

/-- Settles O54: the defaults are parameters like any others. -/
theorem resetIsAllZero : Obligations.ResetIsAllZero := by
  intro s hs
  obtain ⟨c, rfl⟩ : ∃ c, s = State.resetWith c := hs.elim (fun h => ⟨Config.standard, h⟩) id
  exact ⟨⟨statusWord_resetWith c, rfl, rfl, rfl, rfl, rfl, rfl, rfl, rfl, rfl, rfl, rfl, rfl⟩, fun _ _ => rfl,
    Memory.read_nil, Memory.read_nil, Memory.read_nil, fun _ _ => hostRead_resetWith⟩

theorem Memory.nil_below (size : Nat) : Memory.below [] size := nofun

/-- PLEN 0 is inside the buffer because the buffer holds at least the nul (R6). -/
theorem inv_resetWith {c : Config} (h : c.wf) : (State.resetWith c).Inv where
  config := h
  polyWf := Memory.nil_wf
  polyBelow := Memory.nil_below _
  cwWf := Memory.nil_wf
  cwBelow := Memory.nil_below _
  dataWf := Memory.nil_wf
  dataBelow := Memory.nil_below _
  payloadWf := Memory.nil_wf
  payloadBelow := Memory.nil_below _
  errKind := show (0 : BitVec 3) ≠ 7 by decide
  versionRange := Nat.zero_le 40
  plenRange := by
    obtain ⟨-, -, hcap, -⟩ := h
    exact Nat.lt_of_lt_of_le Nat.two_pos hcap
  nul := rfl
  dtypeCode := .inl rfl

/-- Settles O55. -/
theorem resetSatisfiesInvariant : Obligations.ResetSatisfiesInvariant :=
  ⟨inv_resetWith (by decide), fun _ => inv_resetWith⟩

end Sys2Proof.Machine
end

section
/-!
What each instruction may write (70_reset_and_hazards.md R180): its list of outputs, the sticky flag (R163), and the bytes
of PAYLOAD that a record leaves alone (10_state.md R29, 42_bitstream.md R135).
-/

namespace Sys2Proof.Machine

open Sys2Proof.Stmt

/-! ### The outputs of an instruction -/

/-- t is s but for the outputs R180 lists for the instruction, and for `ERR`, ILL and ERRS. -/
structure WritesOnly (i : Instr) (s t : State) : Prop where
  cfg : t.cfg = s.cfg
  fmtraw : t.fmtraw = s.fmtraw
  databits : t.databits = s.databits
  data : t.data = s.data
  inbox : t.inbox = s.inbox
  response : t.response = s.response
  poly : PolyFrame s.poly t.poly s.cfg.maxPoly (polyWrites i)
  cw : ∀ a, cwWrites i ≤ a → t.cw.read a = s.cw.read a
  res : writesRes i = false → t.res = s.res
  statusZ : writesZ i = false → t.statusZ = s.statusZ
  format : i ≠ .fcorr → t.fmt = s.fmt ∧ t.ecclvl = s.ecclvl ∧ t.mask = s.mask
  version : (∀ size, i ≠ .vers size) → t.version = s.version
  bitptr : writesBitptr i = false → t.bitptr = s.bitptr
  payload : writesPayload i = false → t.plen = s.plen ∧ t.payload = s.payload
  dtype : writesDtype i = false → t.dtype = s.dtype
  eci : writesEci i = false → t.eci = s.eci

section Rules

variable {i : Instr} {s t : State}

theorem WritesOnly.refl (i : Instr) (s : State) : WritesOnly i s s where
  cfg := rfl
  fmtraw := rfl
  databits := rfl
  data := rfl
  inbox := rfl
  response := rfl
  poly := polyFrame_refl _ _ _
  cw _ _ := rfl
  res _ := rfl
  statusZ _ := rfl
  format _ := ⟨rfl, rfl, rfl⟩
  version _ := rfl
  bitptr _ := rfl
  payload _ := ⟨rfl, rfl⟩
  dtype _ := rfl
  eci _ := rfl

theorem WritesOnly.succeed (h : WritesOnly i s t) : WritesOnly i s t.succeed := { h with }

theorem WritesOnly.raise (h : WritesOnly i s t) (k : ErrKind) : WritesOnly i s (t.raise k) := { h with }

theorem WritesOnly.finish (h : WritesOnly i s t) (hi : writesPayload i = true) (e : Option ErrKind) :
    WritesOnly i s (t.finish e) := by
  have hclosed : WritesOnly i s t.closeRecord := { h with payload := fun hno => nomatch hi.symm.trans hno }
  cases e with
  | none => exact hclosed.succeed
  | some k => exact hclosed.raise k

/-- What a turn writes, the ending of the payload included. -/
theorem WritesOnly.settle {turn : Turn} (h : WritesOnly i s turn.state) (hi : writesPayload i = true) :
    WritesOnly i s turn.settle := by
  cases turn with
  | more u => exact h
  | stop e u => exact h.finish hi e

theorem WritesOnly.setRes (h : WritesOnly i s t) (hi : writesRes i = true) (v : Nat) : WritesOnly i s (t.setRes v) :=
  { h with res := fun hno => nomatch hi.symm.trans hno }

theorem WritesOnly.setZ (h : WritesOnly i s t) (hi : writesZ i = true) (z : Bool) : WritesOnly i s (t.setZ z) :=
  { h with statusZ := fun hno => nomatch hi.symm.trans hno }

theorem WritesOnly.setPoly (h : WritesOnly i s t) {n : Nat} (hi : n ∈ polyWrites i) (p : List Byte) :
    WritesOnly i s (t.setPoly n p) :=
  { h with poly := h.cfg ▸ polyFrame_setPoly (h.cfg ▸ h.poly) hi p }

theorem writesOnly_setVersion (size : Byte) (v : BitVec 6) : WritesOnly (.vers size) s { s with version := v } :=
  { WritesOnly.refl (.vers size) s with version := fun hno => absurd rfl (hno size) }

/-- The segment decoder writes the pointer and the record; which of `DTYPE` and `ECI` depends on the segment. -/
theorem writesOnly_of_sameButRecord (h : SameButRecord s t) (hptr : writesBitptr i = true)
    (hpayload : writesPayload i = true) (hdtype : writesDtype i = false → t.dtype = s.dtype)
    (heci : writesEci i = false → t.eci = s.eci) : WritesOnly i s t := by
  unfold SameButRecord at h
  rw [h]
  exact { WritesOnly.refl i s with
    bitptr := fun hno => nomatch hptr.symm.trans hno
    payload := fun hno => nomatch hpayload.symm.trans hno
    dtype := hdtype
    eci := heci }

end Rules

/-! ### Segments: `DTYPE` and `ECI` -/

theorem decodeGroups_eci (m : DataMode) (ks : List Nat) (s : State) : (decodeGroups m ks s).state.eci = s.eci := by
  induction ks generalizing s with
  | nil => rfl
  | cons k ks ih =>
    unfold decodeGroups
    cases h : s.field (m.groupWidth k) with
    | none => rfl
    | some r =>
      obtain ⟨-, rfl⟩ := State.field_some.1 h
      exact ih _

theorem dataSegment_eci (m : DataMode) (s : State) : (dataSegment m s).state.eci = s.eci := by
  unfold dataSegment
  cases h : s.field (m.countWidth s.version.toNat) with
  | none => rfl
  | some r =>
    obtain ⟨-, rfl⟩ := State.field_some.1 h
    dsimp only
    split
    · rfl
    · exact decodeGroups_eci _ _ _

/-- No data segment designates an ECI. -/
theorem dataTurn_eci (m : DataMode) (s : State) : (dataTurn m s).state.eci = s.eci := by
  have h := dataSegment_eci m s
  unfold dataTurn
  cases hd : dataSegment m s <;> rw [hd] at h <;> exact h

theorem eciSegment_dtype (s : State) : (eciSegment s).state.dtype = s.dtype := by
  by_cases hshort : left s < 8
  · rw [eciSegment_of_short hshort]
    rfl
  · by_cases hfits : 8 + designatorRest (bits s s.bitptr.toNat 8) ≤ left s
    · rw [eciSegment_of_fits rfl hfits]
      rfl
    · rw [eciSegment_of_cut rfl (Nat.not_lt.1 hshort) (Nat.not_le.1 hfits)]
      rfl

/-- An ECI segment is not one of the data types (R127). -/
theorem eciTurn_dtype (s : State) : (eciTurn s).state.dtype = s.dtype := by
  have h := eciSegment_dtype s
  unfold eciTurn
  cases hd : eciSegment s <;> rw [hd] at h <;> exact h

/-! ### Every instruction writes its outputs only -/

theorem exec_gflog_writesOnly {f : GField} {a : Byte} {s : State} (hl : ¬ illegalOperands s (.gflog f a)) :
    ∃ t, exec (.gflog f a) s = .next t ∧ WritesOnly (.gflog f a) s t := by
  obtain ⟨v, hv⟩ := Option.ne_none_iff_exists'.1 (mt gfLog_elem_eq_none.1 hl)
  exact ⟨_, execGflog_of_gfLog hv s, ((WritesOnly.refl _ s).setRes rfl v).succeed⟩

theorem searched_writesOnly (s : State) : WritesOnly .fcorr s s.searched :=
  { WritesOnly.refl .fcorr s with
    poly := searched_polyFrame s
    statusZ := nofun
    format := fun hno => absurd rfl hno }

theorem WritesOnly.acceptFormat {s t : State} (h : WritesOnly .fcorr s t) (v : BitVec 15) :
    WritesOnly .fcorr s (t.acceptFormat v) :=
  { h with format := fun hno => absurd rfl hno }

theorem exec_fcorr_writesOnly (s : State) : ∃ t, exec .fcorr s = .next t ∧ WritesOnly .fcorr s t := by
  cases hc : formatClean s.unmasked with
  | true =>
    have hfmt : WritesOnly .fcorr s { s with fmt := s.unmasked } :=
      { WritesOnly.refl .fcorr s with format := fun hno => absurd rfl hno }
    have hchecked := (hfmt.setPoly (n := regS) (by decide) (formatSyndromes s.cfg.maxPoly s.unmasked)).setZ rfl true
    exact ⟨_, exec_fcorr_of_clean hc, (hchecked.acceptFormat _).succeed⟩
  | false =>
    cases hv : formatClean (correctedWord s.cfg.maxPoly s.unmasked) with
    | true => exact ⟨_, exec_fcorr_of_corrected hc hv, ((searched_writesOnly s).acceptFormat _).succeed⟩
    | false => exact ⟨_, exec_fcorr_of_failed hc hv, (searched_writesOnly s).raise _⟩

theorem blockCorrected_writesOnly (bs dw : Byte) (s : State) :
    WritesOnly (.bcorr bs dw) s (s.blockCorrected bs.toNat (bs.toNat - dw.toNat)) :=
  { WritesOnly.refl (.bcorr bs dw) s with
    poly := blockCorrected_polyFrame s _ _
    cw := fun _ ha => read_forney_of_ge _ _ _ _ ha _
    statusZ := nofun }

theorem exec_bcorr_writesOnly {bs dw : Byte} {s : State} (hl : ¬ illegalOperands s (.bcorr bs dw)) :
    ∃ t, exec (.bcorr bs dw) s = .next t ∧ WritesOnly (.bcorr bs dw) s t := by
  cases hc : blockClean s.cw bs.toNat (bs.toNat - dw.toNat) with
  | true =>
    have hchecked := (WritesOnly.refl (.bcorr bs dw) s).setPoly List.mem_cons_self
      (blockSyndromes s.cfg.maxPoly s.cw bs.toNat (bs.toNat - dw.toNat))
    exact ⟨_, exec_bcorr_of_clean hl hc, (hchecked.setZ rfl true).succeed⟩
  | false =>
    cases hv : blockClean (correctedBlock s.cfg.maxPoly s.cw bs.toNat (bs.toNat - dw.toNat)) bs.toNat
        (bs.toNat - dw.toNat) with
    | true => exact ⟨_, exec_bcorr_of_corrected hl hc hv, (blockCorrected_writesOnly bs dw s).succeed⟩
    | false => exact ⟨_, exec_bcorr_of_failed hl hc hv, (blockCorrected_writesOnly bs dw s).raise _⟩

theorem exec_eevp_writesOnly {npar : Byte} {s : State} (hl : ¬ illegalOperands s (.eevp npar)) :
    ∃ t, exec (.eevp npar) s = .next t ∧ WritesOnly (.eevp npar) s t :=
  ⟨_, exec_eevp_of_legal hl, (((WritesOnly.refl (.eevp npar) s).setPoly List.mem_cons_self _).setPoly
    (List.mem_cons_of_mem _ List.mem_cons_self) _).succeed⟩

theorem exec_vers_writesOnly (size : Byte) (s : State) :
    ∃ t, exec (.vers size) s = .next t ∧ WritesOnly (.vers size) s t := by
  have hset (v : BitVec 6) : WritesOnly (.vers size) s { s with version := v } := writesOnly_setVersion size v
  by_cases hmod : size.toNat % 4 = 1
  · by_cases hrange : size.toNat < 21 ∨ 177 < size.toNat
    · exact ⟨_, exec_vers_of_out_of_range hmod hrange, (hset 0).raise _⟩
    · exact ⟨_, exec_vers_of_version (v := (size.toNat - 17) / 4) (by omega) (by omega) (by omega), (hset _).succeed⟩
  · exact ⟨_, exec_vers_of_mod_ne hmod, (hset 0).raise _⟩

theorem exec_take_writesOnly {n : Byte} {s : State} (hl : ¬ illegalOperands s (.take n)) :
    ∃ t, exec (.take n) s = .next t ∧ WritesOnly (.take n) s t := by
  have hlegal : s.takeLegal n = true := (legalOperands_iff s (.take n)).2 hl
  by_cases hfits : n.toNat ≤ left s
  · have hread : WritesOnly (.take n) s (s.advance n.toNat) := { WritesOnly.refl (.take n) s with bitptr := nofun }
    exact ⟨_, exec_take_of_fits hlegal hfits, (hread.setRes rfl _).succeed⟩
  · exact ⟨_, exec_take_of_short hlegal (Nat.not_le.1 hfits), (WritesOnly.refl _ s).raise _⟩

/-- A legal PAYLOAD ends its fresh record, at once or after the loop. -/
theorem exec_payload_eq_finish {s : State} (hl : ¬ illegalOperands s .payload) :
    ∃ u e, exec .payload s = .next (u.finish e) ∧ SameButRecord s.freshRecord u := by
  have hlegal : s.bitSourceLegal = true := (legalOperands_iff s .payload).2 hl
  by_cases hv : s.version = 0
  · exact ⟨_, _, exec_payload_of_version_eq_zero hlegal hv, .refl _⟩
  · exact ⟨_, _, exec_payload_of_version_ne_zero hlegal hv, payloadLoop_state _ _⟩

theorem exec_payload_writesOnly {s : State} (hl : ¬ illegalOperands s .payload) :
    ∃ t, exec .payload s = .next t ∧ WritesOnly .payload s t := by
  obtain ⟨u, e, hexec, hu⟩ := exec_payload_eq_finish hl
  have hrun : WritesOnly .payload s.freshRecord u := writesOnly_of_sameButRecord hu rfl rfl nofun nofun
  have hfresh : WritesOnly .payload s u := { hrun with bitptr := nofun, payload := nofun, dtype := nofun, eci := nofun }
  exact ⟨_, hexec, hfresh.finish rfl e⟩

/-- A data segment reads the stream, emits bytes, and is of a data type (R127). -/
theorem modeInstr_writes (m : DataMode) : writesBitptr (modeInstr m) = true ∧ writesPayload (modeInstr m) = true ∧
    writesDtype (modeInstr m) = true := by
  cases m <;> exact ⟨rfl, rfl, rfl⟩

theorem exec_modeInstr_writesOnly (m : DataMode) (s : State) :
    ∃ t, exec (modeInstr m) s = .next t ∧ WritesOnly (modeInstr m) s t := by
  obtain ⟨hptr, hpayload, hdtype⟩ := modeInstr_writes m
  have hturn : WritesOnly (modeInstr m) s (dataTurn m s).state :=
    writesOnly_of_sameButRecord (dataTurn_state m s) hptr hpayload (fun hno => nomatch hdtype.symm.trans hno) fun _ =>
      dataTurn_eci m s
  exact ⟨_, exec_modeInstr m s, hturn.settle hpayload⟩

theorem exec_segEci_writesOnly (s : State) : ∃ t, exec .segEci s = .next t ∧ WritesOnly .segEci s t := by
  have hturn : WritesOnly .segEci s (eciTurn s).state :=
    writesOnly_of_sameButRecord (eciTurn_state s) rfl rfl (fun _ => eciTurn_dtype s) nofun
  exact ⟨_, rfl, hturn.settle rfl⟩

theorem exec_writesOnly (i : Instr) (s : State) : ∃ t, exec i s = .next t ∧ WritesOnly i s t := by
  by_cases hill : illegalOperands s i
  · exact ⟨_, exec_of_illegalOperands (isCommand_of_illegalOperands hill) hill, { WritesOnly.refl i s with }⟩
  cases i with
  | nop => exact ⟨_, rfl, (WritesOnly.refl _ s).succeed⟩
  | gfexp f idx => exact ⟨_, exec_gfexp f idx s, ((WritesOnly.refl _ s).setRes rfl _).succeed⟩
  | gflog f a => exact exec_gflog_writesOnly hill
  | peval f ps x => exact ⟨_, exec_peval f ps x s, ((WritesOnly.refl _ s).setRes rfl _).succeed⟩
  | padd f pd ps c shift => exact ⟨_, rfl, ((WritesOnly.refl _ s).setPoly List.mem_cons_self _).succeed⟩
  | bm f n =>
    exact ⟨_, exec_bm_of_legal (Nat.not_lt.1 hill), ((WritesOnly.refl _ s).setPoly List.mem_cons_self _).succeed⟩
  | fsyn => exact ⟨_, rfl, (((WritesOnly.refl _ s).setPoly List.mem_cons_self _).setZ rfl _).succeed⟩
  | fcorr => exact exec_fcorr_writesOnly s
  | bsyn bs npar =>
    exact ⟨_, exec_bsyn_of_legal hill, (((WritesOnly.refl _ s).setPoly List.mem_cons_self _).setZ rfl _).succeed⟩
  | eevp npar => exact exec_eevp_writesOnly hill
  | bcorr bs dw => exact exec_bcorr_writesOnly hill
  | vers size => exact exec_vers_writesOnly size s
  | take n => exact exec_take_writesOnly hill
  | payload => exact exec_payload_writesOnly hill
  | segNum => exact exec_modeInstr_writesOnly .numeric s
  | segAlnum => exact exec_modeInstr_writesOnly .alphanumeric s
  | segByte => exact exec_modeInstr_writesOnly .byte s
  | segKanji => exact exec_modeInstr_writesOnly .kanji s
  | segEci => exact exec_segEci_writesOnly s
  | segEnd mode => exact ⟨_, exec_segEnd mode, (WritesOnly.refl _ s).finish rfl none⟩

/-! ### Segments are turns -/

/-- Each segment arm is the turn of some mode indicator (log entry 5); 0 is one of those that end the message (R133). -/
theorem exec_segment {i : Instr} (hi : isCommand i = false) (s : State) :
    ∃ mode, exec i s = .next (turn mode s).settle := by
  cases i with
  | segNum => exact ⟨1, rfl⟩
  | segAlnum => exact ⟨2, rfl⟩
  | segByte => exact ⟨4, rfl⟩
  | segKanji => exact ⟨8, rfl⟩
  | segEci => exact ⟨7, rfl⟩
  | segEnd mode => exact ⟨0, rfl⟩
  | _ => cases hi

/-! ### The sticky flag -/

theorem ErrKind.code_ne_zero (k : ErrKind) : k.code ≠ 0 := by cases k <;> decide

/-- The instruction ended without an error and left ERRS alone, or with one and set it (R12, R163). -/
def ErrsRecorded (s t : State) : Prop := t.statusErrs = s.statusErrs ∨ (t.err ≠ 0 ∧ t.statusErrs = true)

theorem errsRecorded_settle {s : State} {turn : Turn} (h : turn.state.statusErrs = s.statusErrs) :
    ErrsRecorded s turn.settle := by
  cases turn with
  | more u => exact .inl h
  | stop e u =>
    cases e with
    | none => exact .inl h
    | some k => exact .inr ⟨k.code_ne_zero, rfl⟩

theorem errsRecorded_of_commandEnd {i : Instr} {s t : State} (hl : ¬ illegalOperands s i)
    (h : CommandEnd i s (.next t)) : ErrsRecorded s t := by
  cases h with
  | illegal hill => exact absurd hill hl
  | succeeded _ hu => exact .inl hu.errs
  | @raised u k => exact .inr ⟨k.code_ne_zero, rfl⟩

theorem exec_errsRecorded {i : Instr} {s t : State} (hl : ¬ illegalOperands s i) (ht : exec i s = .next t) :
    ErrsRecorded s t := by
  cases hi : isCommand i with
  | true => exact errsRecorded_of_commandEnd hl (ht ▸ exec_end hi s)
  | false =>
    obtain ⟨mode, hmode⟩ := exec_segment hi s
    obtain rfl := Host.Outcome.next.inj (ht.symm.trans hmode)
    exact errsRecorded_settle (turn_state mode s).statusErrs_eq

theorem ErrsRecorded.eq_of_err_eq_zero {s t : State} (h : ErrsRecorded s t) (herr : t.err = 0) :
    t.statusErrs = s.statusErrs :=
  h.resolve_right fun ⟨hne, _⟩ => hne herr

theorem ErrsRecorded.sticky {s t : State} (h : ErrsRecorded s t) (hs : s.statusErrs = true) : t.statusErrs = true :=
  h.elim (fun heq => heq.trans hs) And.right

/-! ### The bytes of the payload -/

/-- The record holds its first p bytes and everything from its length on as `mem` does, and fits its buffer. -/
structure RecordExtends (mem : Memory) (p : Nat) (s : State) : Prop where
  cap : s.cfg.payloadCap ≤ 32768
  plenLe : s.plen.toNat ≤ s.cfg.payloadCap
  baseLe : p ≤ s.plen.toNat
  outside : ∀ a, a < p ∨ s.plen.toNat ≤ a → s.payload.read a = mem.read a

section Extends

variable {mem : Memory} {p : Nat} {s : State}

theorem RecordExtends.emit (h : RecordExtends mem p s) {bs : List Byte}
    (hroom : s.plen.toNat + bs.length ≤ s.cfg.payloadCap) : RecordExtends mem p (s.emit bs) := by
  have hcap := h.cap
  have hbase := h.baseLe
  have hplen := emit_plen_toNat (s := s) (bs := bs) (by omega)
  exact { h with
    plenLe := by rw [hplen]; exact hroom
    baseLe := by omega
    outside := fun a ha => by
      rw [State.emit_read, if_neg (by omega)]
      exact h.outside a (by omega) }

/-- The segment decoder keeps it: it only appends. -/
theorem simulation_recordExtends (mem : Memory) (p : Nat) : Simulation fun s t => s = t ∧ RecordExtends mem p s :=
  simulation_of_invariant (fun h _ => { h with }) (fun h hroom => h.emit hroom) (fun _ h => { h with })
    (fun _ h => { h with })

theorem RecordExtends.turn (h : RecordExtends mem p s) (mode : BitVec 4) : RecordExtends mem p (turn mode s).state := by
  have hrel := (simulation_recordExtends mem p).turn mode ⟨rfl, h⟩
  generalize Machine.turn mode s = u at hrel ⊢
  cases hrel with
  | more h' => exact h'.2
  | stop _ h' => exact h'.2

/-- Nothing above the new `PLEN` and nothing below p is written, but for the byte the nul takes. -/
structure WrittenBetween (mem : Memory) (p : Nat) (t : State) : Prop where
  above : ∀ a, t.plen.toNat < a → t.payload.read a = mem.read a
  below : ∀ a < p, a ≠ t.plen.toNat → t.payload.read a = mem.read a

theorem RecordExtends.writtenBetween (h : RecordExtends mem p s) : WrittenBetween mem p s where
  above a ha := h.outside a (.inr ha.le)
  below a ha _ := h.outside a (.inl ha)

/-- The nul takes the byte at the new `PLEN`, and the byte that a full buffer gives up is that one (R135). -/
theorem RecordExtends.finish (h : RecordExtends mem p s) (hcap : 0 < s.cfg.payloadCap) (e : Option ErrKind) :
    WrittenBetween mem p (s.finish e) := by
  have hclosed : WrittenBetween mem p s.closeRecord := {
    above := fun a ha => by
      have hplen := State.closeRecord_plen_toNat hcap
      rw [State.closeRecord_read, if_neg ha.ne]
      exact h.outside a (.inr (by split at hplen <;> omega))
    below := fun a ha hne => by
      rw [State.closeRecord_read, if_neg hne.symm]
      exact h.outside a (.inl ha) }
  cases e <;> exact { hclosed with }

theorem RecordExtends.settle {turn : Turn} (h : RecordExtends mem p turn.state)
    (hcap : 0 < turn.state.cfg.payloadCap) : WrittenBetween mem p turn.settle := by
  cases turn with
  | more u => exact h.writtenBetween
  | stop e u => exact h.finish hcap e

end Extends

theorem recordExtends_refl {s : State} (hcap : s.cfg.payloadCap ≤ 32768) (hplen : s.plen.toNat ≤ s.cfg.payloadCap) :
    RecordExtends s.payload s.plen.toNat s :=
  ⟨hcap, hplen, le_rfl, fun _ _ => rfl⟩

theorem exec_segment_writtenBetween {i : Instr} (hi : isCommand i = false) {s t : State} (hwf : s.cfg.wf)
    (hplen : s.plen.toNat ≤ s.cfg.payloadCap) (ht : exec i s = .next t) : WrittenBetween s.payload s.plen.toNat t := by
  obtain ⟨-, -, hpos, hcap, -⟩ := hwf
  obtain ⟨mode, hmode⟩ := exec_segment hi s
  obtain rfl := Host.Outcome.next.inj (ht.symm.trans hmode)
  refine ((recordExtends_refl hcap hplen).turn mode).settle ?_
  rw [(turn_state mode s).cfg_eq]
  omega

/-- PAYLOAD starts from an empty record, so it may write every byte up to the new `PLEN`. -/
theorem exec_payload_above {s t : State} (hl : ¬ illegalOperands s .payload) (hwf : s.cfg.wf)
    (ht : exec .payload s = .next t) : ∀ a, t.plen.toNat < a → t.payload.read a = s.payload.read a := by
  obtain ⟨-, -, hpos, hcap, -⟩ := hwf
  obtain ⟨u, e, hexec, hu, hfits, -⟩ := exec_payload_of_legal ((legalOperands_iff s .payload).2 hl) hcap
  obtain rfl := Host.Outcome.next.inj (ht.symm.trans hexec)
  have hcfg : u.cfg = s.cfg := hu.cfg_eq
  exact ((hfits.closeRecord (by rw [hcfg]; omega)).finish e).above

theorem eq_payload_or_segment {i : Instr} (h : writesPayload i = true) : i = .payload ∨ isCommand i = false := by
  cases i with
  | payload => exact .inl rfl
  | segNum | segAlnum | segByte | segKanji | segEci | segEnd mode => exact .inr rfl
  | _ => cases h

theorem exec_payload_bytes {i : Instr} {s t : State} (hl : ¬ illegalOperands s i) (ht : exec i s = .next t)
    (hwf : s.cfg.wf) (hplen : s.plen.toNat ≤ s.cfg.payloadCap) (hout : WritesOnly i s t) :
    (∀ a, t.plen.toNat < a → t.payload.read a = s.payload.read a) ∧
      (i ≠ .payload → ∀ a < s.plen.toNat, a ≠ t.plen.toNat → t.payload.read a = s.payload.read a) := by
  cases hi : writesPayload i with
  | false =>
    obtain ⟨-, hsame⟩ := hout.payload hi
    rw [hsame]
    exact ⟨fun _ _ => rfl, fun _ _ _ _ => rfl⟩
  | true =>
    rcases eq_payload_or_segment hi with rfl | hseg
    · exact ⟨exec_payload_above hl hwf ht, fun hne => absurd rfl hne⟩
    · have h := exec_segment_writtenBetween hseg hwf hplen ht
      exact ⟨h.above, fun _ => h.below⟩

/-- Settles O57: the outputs of the instruction, and after an illegal command nothing but the two flags. -/
theorem instructionsWriteOnlyTheirOutputs : Obligations.InstructionsWriteOnlyTheirOutputs := by
  intro i s t ht
  obtain ⟨t', ht', h⟩ := exec_writesOnly i s
  obtain rfl := Host.Outcome.next.inj (ht.symm.trans ht')
  have hillegal (hill : illegalOperands s i) : t = s.illegal :=
    Host.Outcome.next.inj (ht.symm.trans (exec_of_illegalOperands (isCommand_of_illegalOperands hill) hill))
  refine ⟨h.cfg, h.fmtraw, h.databits, h.data, h.inbox, h.response, h.poly, h.cw, h.res, h.statusZ, h.format, h.version,
    h.bitptr, h.payload, h.dtype, h.eci, hillegal, fun hl => (exec_errsRecorded hl ht).eq_of_err_eq_zero, ?_, ?_⟩
  · by_cases hill : illegalOperands s i
    · rw [hillegal hill]
      exact fun _ => rfl
    · exact (exec_errsRecorded hill ht).sticky
  · intro hwf hplen
    by_cases hill : illegalOperands s i
    · rw [hillegal hill]
      exact ⟨fun _ _ => rfl, fun _ _ _ _ => rfl⟩
    · exact exec_payload_bytes hill ht hwf hplen h

end Sys2Proof.Machine
end
